-- ==== Sys2Proof/Word.lean ====
section
/-! DEFINITION. The word types of the block: one byte of the serial link, one pixel, one 32-bit word
(operation word, result, counter, timestamp). -/

namespace Sys2Proof

/-- One byte of the serial link, and one channel index (R68, R99, R104). -/
abbrev Byte := BitVec 8

/-- One pixel of an icon: 16 opaque bits (R61). -/
abbrev Pixel := BitVec 16

/-- A 32-bit word: the operation word (R104), the result port (R49), the position counter (R21). -/
abbrev Word := BitVec 32

/-- A timestamp: W_T = 32 bits, unsigned, in the source's unnamed time unit (R6, R12). -/
abbrev Time := BitVec 32

end Sys2Proof
end

