-- ==== Sys2Proof/Config.lean ====
section
/-! DEFINITION. The implementation parameters of 00_scope.md: those the spec fixes (R5) as constants, those it
leaves open or names as parameters (R6) as one record that a state carries, and the one free value (U1). -/

namespace Sys2Proof

namespace Config

/-- SAMPLE_INTERVAL: minimum time between two samples of one fader (R5). -/
def sampleInterval : Nat := 20

/-- DEBOUNCE_WINDOW: the button level must be stable longer than this (R5). -/
def debounceWindow : Nat := 50

/-- FILT_NUM: the filter's weight on history is FILT_NUM / FILT_DEN (R5). -/
def filtNum : Nat := 3

/-- FILT_DEN (R5). -/
def filtDen : Nat := 4

/-- OUT_MAX: top of the 8-bit output range (R5). -/
def outMax : Nat := 255

/-- ADC_MAX: top of the raw analog range (R6). -/
def adcMax : Nat := 1023

/-- ICON_W: icon width in pixels (R5). -/
def iconW : Nat := 64

/-- ICON_H: icon height in pixels (R5). -/
def iconH : Nat := 64

/-- NPIX: pixels of one icon, ICON_W * ICON_H (R5). -/
def npix : Nat := 4096

/-- ICON_BYTES: bytes of one icon stream, 2 * NPIX (R5). -/
def iconBytes : Nat := 8192

/-- NAME_LEN: bytes of the application-name text field (R5). -/
def nameLen : Nat := 64

/-- MAGIC_LEN: bytes of the identity tag (R5). -/
def magicLen : Nat := 9

/-- UUID_LEN: bytes of the device identifier (R5). -/
def uuidLen : Nat := 16

/-- VOL_MAX: top of the volume range (R5). -/
def volMax : Nat := 100

/-- CMD_HS_REQ: command byte of the handshake request (R5). -/
def cmdHsReq : Byte := 0x01

/-- CMD_FADER_UPD: command byte of the fader update (R5). -/
def cmdFaderUpd : Byte := 0x10

/-- FREE VALUE (93_implementation_defined.md U1; log entry 3). What the n-th read of a pixel that nothing has
written gives. It has no body: no value of it can be computed or proved, and two reads need not agree. -/
opaque freePixel : Nat → Pixel

end Config

/-- The parameters the spec leaves open or names as parameters (R6). A model takes them as arguments: here a state
carries them and no operation writes them (log entry 1), so a statement about every state holds for every value. -/
structure Params where
  /-- NCH: number of channels, 1 to 256. -/
  nch : Nat
  /-- PRESSED_LEVEL: the raw button level that means "pressed". -/
  pressedLevel : Bool
  /-- DEADBAND: threshold of the fader gate in output units. -/
  deadband : Nat
  /-- CMD_HS_RESP: command byte of the handshake response, in 0x00 to 0x0F. -/
  cmdHsResp : Byte
  /-- CMD_APP_NAME: command byte of the application-name update. -/
  cmdAppName : Byte
  /-- CMD_VOLUME: command byte of the volume update. -/
  cmdVolume : Byte
  /-- CMD_ICON: command byte of the icon chunk. -/
  cmdIcon : Byte
  /-- MAGIC: the 9-character ASCII tag. -/
  magic : Vector Byte 9
  /-- DEVICE_TYPE: the device-type byte. -/
  deviceType : Byte
  /-- VER_MAJOR: protocol version, major part. -/
  verMajor : Byte
  /-- VER_MINOR: protocol version, minor part. -/
  verMinor : Byte
deriving DecidableEq, Repr

/-- The defaults of R6, with NCH = 4 as the test vectors take it (95_test_vectors.md preamble; log entry 1). -/
def Params.default : Params where
  nch := 4
  pressedLevel := false
  deadband := 2
  cmdHsResp := 0x02
  cmdAppName := 0x20
  cmdVolume := 0x21
  cmdIcon := 0x22
  magic := #v[0x46, 0x41, 0x44, 0x45, 0x52, 0x46, 0x4C, 0x4F, 0x57]
  deviceType := 0x01
  verMajor := 1
  verMinor := 0

/-- What R6 asks of the parameters: NCH is 1 to 256, CMD_HS_RESP lies in 0x00 to 0x0F, and the four inbound
command bytes are pairwise distinct. -/
abbrev Params.wf (p : Params) : Prop :=
  1 ≤ p.nch ∧ p.nch ≤ 256 ∧ p.cmdHsResp.toNat ≤ 0x0F ∧
    [Config.cmdHsReq, p.cmdAppName, p.cmdVolume, p.cmdIcon].Nodup

/-- The inbound command bytes that open a frame with a payload (R131). -/
abbrev Params.framed (p : Params) (b : Byte) : Prop :=
  b = p.cmdAppName ∨ b = p.cmdVolume ∨ b = p.cmdIcon

/-- The recognised inbound command bytes, R102: exactly CMD_HS_REQ, CMD_APP_NAME, CMD_VOLUME and CMD_ICON. -/
abbrev Params.recognised (p : Params) (b : Byte) : Prop :=
  b = Config.cmdHsReq ∨ p.framed b

end Sys2Proof
end

