-- ==== Sys2Proof/Syntax.lean ====
section
/-! DEFINITION. The operations of the block, one constructor per row of spec/opcode_table.json, and the three
ways a request reaches it. What the checklist calls an instruction is an operation or a wire command (R2). -/

namespace Sys2Proof

/-- The operands one channel contributes to the pseudo-operation TICK: `raw[c]`, `clk[c]`, `dt[c]`, `sw[c]` (R110). -/
structure TickInput where
  raw : BitVec 10
  clk : Bool
  dt : Bool
  sw : Bool
deriving DecidableEq, Repr

/-- The operations and wire commands. Operand names and widths are those of R106 and R92; a line level or a flag
operand of one bit is a `Bool`. -/
inductive Instr where
  /-- NOP, code 0x0 (R250). -/
  | nop
  /-- RX.BYTE, code 0x1: one inbound byte (R130). -/
  | rxByte (b : Byte)
  /-- RX.REARM, code 0x2 (R142). -/
  | rxRearm
  /-- ICO.START, code 0x3 (R170). -/
  | icoStart (ch : Byte)
  /-- ICO.ADDBYTE, code 0x4 (R171). -/
  | icoAddByte (ch : Byte) (b : Byte)
  /-- ICO.ISREADY, code 0x5 (R174). -/
  | icoIsReady (ch : Byte)
  /-- ICO.SETPH, code 0x6 (R175). -/
  | icoSetPh (ch : Byte) (v : Bool)
  /-- ICO.DRAW, code 0x7 (R177). -/
  | icoDraw (ch : Byte) (x : BitVec 10) (y : BitVec 10)
  /-- ICO.RDPIX, code 0x8 (R178). -/
  | icoRdPix (ch : Byte) (i : BitVec 12)
  /-- FAD.SAMPLE, code 0x9 (R200). -/
  | fadSample (ch : Byte) (raw : BitVec 10)
  /-- ENC.TICK, code 0xA (R220). -/
  | encTick (ch : Byte) (clk dt sw : Bool)
  /-- ENC.GETDELTA, code 0xB (R224). -/
  | encGetDelta (ch : Byte)
  /-- ENC.WASPRESSED, code 0xC (R225). -/
  | encWasPressed (ch : Byte)
  /-- STAT.READ, code 0xD (R251). -/
  | statRead
  /-- STAT.CLEAR, code 0xE (R252). -/
  | statClear
  /-- The reserved code 0xF (R253). -/
  | reservedF
  /-- HS_REQ, inbound wire command without payload (R93, R135). -/
  | hsReq
  /-- HS_RESP, the outbound identity announcement (R94, R136). -/
  | hsResp
  /-- FADER_UPD, the outbound fader update (R95, R140). -/
  | faderUpd (ch : Byte) (position : Byte)
  /-- APP_NAME, inbound: a whole frame with its 64-byte text (R96, R137). -/
  | appName (ch : Byte) (text : List Byte)
  /-- VOLUME, inbound: a whole frame (R97, R138). -/
  | volume (ch : Byte) (value : Byte)
  /-- ICON, inbound: a whole frame with its 8192 pixel bytes (R98, R139). -/
  | icon (ch : Byte) (pixels : List Byte)
  /-- An inbound byte that is no recognised command byte (R102, R141). -/
  | unrecognised (b : Byte)
  /-- TICK, pseudo-operation: the operands of channel 0 first (R110, R254). -/
  | tick (inputs : List TickInput)
  /-- RX.FRAME, pseudo-operation (R110). -/
  | rxFrame (bytes : List Byte)
  /-- ICO.STREAM, pseudo-operation (R110). -/
  | icoStream (ch : Byte) (bytes : List Byte)
deriving DecidableEq, Repr

/-- How a request reaches the block. The two encoding spaces of R90 never mix: an operation word comes on the
driver's port, bytes come on the serial link. A message of the outbound direction is asked for by its command byte
and operands (log entries 9, 10). -/
inductive Request where
  /-- One 32-bit operation word on the driver's port (R104). -/
  | word (op : Word)
  /-- Consecutive inbound bytes of the serial link, handed over at once (R91, R110). -/
  | burst (bytes : List Byte)
  /-- An outbound message, asked for by its command byte and the operands R136 and R140 give it. -/
  | send (bytes : List Byte)
deriving DecidableEq, Repr

end Sys2Proof
end

