-- ==== Sys2Proof/WellFormed.lean ====
section
/-! DEFINITION. Which operations the spec's encodings admit: every operand width stands in the type already, so what
is left are the lengths of the byte fields and of the per-channel operands. -/

namespace Sys2Proof

/-- The operations the encodings admit under the parameters `p`. -/
def Instr.wf (p : Params) : Instr → Bool
  | .nop | .rxRearm | .statRead | .statClear | .reservedF | .hsReq | .hsResp => true
  | .rxByte _ | .icoStart _ | .icoAddByte _ _ | .icoIsReady _ | .icoSetPh _ _ | .icoDraw _ _ _ => true
  | .icoRdPix _ _ | .fadSample _ _ | .encTick _ _ _ _ | .encGetDelta _ | .encWasPressed _ => true
  | .faderUpd _ _ | .volume _ _ => true
  -- the text is a fixed field of NAME_LEN bytes (R96)
  | .appName _ text => text.length == Config.nameLen
  -- an icon frame carries ICON_BYTES pixel bytes (R98)
  | .icon _ pixels => pixels.length == Config.iconBytes
  -- every value but the recognised ones (R102)
  | .unrecognised b => !decide (p.recognised b)
  -- one operand group for each channel (R110)
  | .tick inputs => inputs.length == p.nch
  -- at least the byte b0 (R110)
  | .rxFrame bytes => !bytes.isEmpty
  | .icoStream _ bytes => !bytes.isEmpty

end Sys2Proof
end

