-- ==== Sys2Proof/Decode.lean ====
section
/-! DEFINITION. From a request to the operation it stands for, total and rejecting by name; and after it the
encoder, written from the same tables (R92 to R98, R104 to R106, R110). -/

namespace Sys2Proof

/-! ## Fields of the local operation word (R104) -/

/-- `op[31:28]`, the operation code. -/
def opCode (w : Word) : BitVec 4 := w.extractLsb' 28 4

/-- `op[27:20]`, the channel index. -/
def opCh (w : Word) : Byte := w.extractLsb' 20 8

/-- `op[19:0]`, the operand bits. -/
def opArg (w : Word) : BitVec 20 := w.extractLsb' 0 20

/-- `b = arg[7:0]`, of RX.BYTE and ICO.ADDBYTE (R106). -/
def argB (a : BitVec 20) : Byte := a.extractLsb' 0 8

/-- `arg[k]`, a one-bit operand (R106). -/
def argBit (a : BitVec 20) (k : Nat) : Bool := a.getLsbD k

/-- `x = arg[9:0]` of ICO.DRAW, and `raw = arg[9:0]` of FAD.SAMPLE (R106). -/
def argLow10 (a : BitVec 20) : BitVec 10 := a.extractLsb' 0 10

/-- `y = arg[19:10]` of ICO.DRAW (R106). -/
def argHigh10 (a : BitVec 20) : BitVec 10 := a.extractLsb' 10 10

/-- `i = arg[11:0]` of ICO.RDPIX (R106). -/
def argI (a : BitVec 20) : BitVec 12 := a.extractLsb' 0 12

/-- The operation codes (R105) with their operands (R106); bits that R106 assigns to no operand are ignored (R108). -/
def decodeWord (w : Word) : Instr :=
  match (opCode w).toNat with
  | 0x0 => .nop
  | 0x1 => .rxByte (argB (opArg w))
  | 0x2 => .rxRearm
  | 0x3 => .icoStart (opCh w)
  | 0x4 => .icoAddByte (opCh w) (argB (opArg w))
  | 0x5 => .icoIsReady (opCh w)
  | 0x6 => .icoSetPh (opCh w) (argBit (opArg w) 0)
  | 0x7 => .icoDraw (opCh w) (argLow10 (opArg w)) (argHigh10 (opArg w))
  | 0x8 => .icoRdPix (opCh w) (argI (opArg w))
  | 0x9 => .fadSample (opCh w) (argLow10 (opArg w))
  | 0xA => .encTick (opCh w) (argBit (opArg w) 0) (argBit (opArg w) 1) (argBit (opArg w) 2)
  | 0xB => .encGetDelta (opCh w)
  | 0xC => .encWasPressed (opCh w)
  | 0xD => .statRead
  | 0xE => .statClear
  | _ => .reservedF

/-! ## Frames of the serial link (R91, R92) -/

/-- PLEN of an inbound command, the payload bytes after its command byte (R92). A byte that opens no frame with a
payload has none; the parser asks only for those that do, as long as R53 (c) holds (log entry 13). -/
def inboundPlen (p : Params) (cmd : Byte) : Nat :=
  if cmd = p.cmdAppName then 1 + Config.nameLen
  else if cmd = p.cmdVolume then 2
  else if cmd = p.cmdIcon then 1 + Config.iconBytes
  else 0

/-- FLEN of an inbound command: the command byte and its payload (R92). -/
def inboundFlen (p : Params) (cmd : Byte) : Nat := 1 + inboundPlen p cmd

/-- The identity tag, the device type, the identifier and the version, in the order of R94, each array lowest index
first (R65). -/
def hsRespMessage (p : Params) (uuidBytes : List Byte) : List Byte :=
  p.cmdHsResp :: (p.magic.toList ++ [p.deviceType] ++ uuidBytes ++ [p.verMajor, p.verMinor])

/-- `10 cc qq` (R95). -/
def faderUpdMessage (ch position : Byte) : List Byte := [Config.cmdFaderUpd, ch, position]

/-- Why a request stands for no operation. -/
inductive DecodeError where
  /-- No inbound byte at all: there is nothing to consume. -/
  | emptyBurst
  /-- No outbound command byte. -/
  | emptySend
  /-- An outbound command byte that R92 does not list as outbound. -/
  | unknownOutbound (cmd : Byte)
  /-- An outbound command with a number of operand bytes R136 or R140 does not give it. -/
  | outboundOperands (cmd : Byte) (count : Nat)
deriving DecidableEq, Repr

/-- Inbound bytes handed over at once. Exactly one whole frame of a recognised command, with the parser left out of
account, is that wire command; one unrecognised byte is that; any other bytes are the sequence RX.FRAME (log entry 9),
so that a malformed stream (R67, R297) is an operation like any other. -/
def decodeBurst (p : Params) : List Byte → Except DecodeError Instr
  | [] => .error .emptyBurst
  | [cmd] =>
    if cmd = Config.cmdHsReq then .ok .hsReq
    else if p.framed cmd then .ok (.rxFrame [cmd])
    else .ok (.unrecognised cmd)
  | [cmd, b1] => .ok (.rxFrame [cmd, b1])
  | cmd :: ch :: b2 :: rest =>
    if cmd = p.cmdAppName ∧ (b2 :: rest).length = Config.nameLen then .ok (.appName ch (b2 :: rest))
    else if cmd = p.cmdVolume ∧ rest = [] then .ok (.volume ch b2)
    else if cmd = p.cmdIcon ∧ (b2 :: rest).length = Config.iconBytes then .ok (.icon ch (b2 :: rest))
    else .ok (.rxFrame (cmd :: ch :: b2 :: rest))

/-- An outbound message asked for by its command byte: HS_RESP takes no operand (R136), FADER_UPD its channel and
position (R140). -/
def decodeSend (p : Params) : List Byte → Except DecodeError Instr
  | [] => .error .emptySend
  | cmd :: operands =>
    if cmd = p.cmdHsResp then
      match operands with
      | [] => .ok .hsResp
      | _ :: _ => .error (.outboundOperands cmd operands.length)
    else if cmd = Config.cmdFaderUpd then
      match operands with
      | [ch, position] => .ok (.faderUpd ch position)
      | _ => .error (.outboundOperands cmd operands.length)
    else .error (.unknownOutbound cmd)

/-- The operation a request stands for. Every operation word stands for one (R105, R108). -/
def decode (p : Params) : Request → Except DecodeError Instr
  | .word w => .ok (decodeWord w)
  | .burst bytes => decodeBurst p bytes
  | .send bytes => decodeSend p bytes

/-! ## The encoder -/

/-- `op = code << 28 | ch << 20 | arg` (R104). -/
def mkWord (code : BitVec 4) (ch : Byte) (arg : BitVec 20) : Word := code ++ ch ++ arg

/-- What a pseudo-operation expands to (R110, R254); every other operation is its own only member. -/
def Instr.expand : Instr → List Instr
  | .tick inputs =>
    inputs.mapIdx (fun c x => .fadSample (BitVec.ofNat 8 c) x.raw) ++
      inputs.mapIdx (fun c x => .encTick (BitVec.ofNat 8 c) x.clk x.dt x.sw)
  | .rxFrame bytes => bytes.map .rxByte
  | .icoStream ch bytes => bytes.map (.icoAddByte ch)
  | .nop => [.nop]
  | .rxByte a => [.rxByte a]
  | .rxRearm => [.rxRearm]
  | .icoStart a => [.icoStart a]
  | .icoAddByte a b => [.icoAddByte a b]
  | .icoIsReady a => [.icoIsReady a]
  | .icoSetPh a b => [.icoSetPh a b]
  | .icoDraw a b c => [.icoDraw a b c]
  | .icoRdPix a b => [.icoRdPix a b]
  | .fadSample a b => [.fadSample a b]
  | .encTick a b c d => [.encTick a b c d]
  | .encGetDelta a => [.encGetDelta a]
  | .encWasPressed a => [.encWasPressed a]
  | .statRead => [.statRead]
  | .statClear => [.statClear]
  | .reservedF => [.reservedF]
  | .hsReq => [.hsReq]
  | .hsResp => [.hsResp]
  | .faderUpd a b => [.faderUpd a b]
  | .appName a b => [.appName a b]
  | .volume a b => [.volume a b]
  | .icon a b => [.icon a b]
  | .unrecognised a => [.unrecognised a]

/-- The request of one operation that is no pseudo-operation (R93 to R98, R104 to R106); unused bits are 0. A
pseudo-operation has no encoding of its own. -/
def encodeOne (p : Params) : Instr → Option Request
  | .nop => some (.word (mkWord 0x0 0 0))
  | .rxByte b => some (.word (mkWord 0x1 0 (0#12 ++ b)))
  | .rxRearm => some (.word (mkWord 0x2 0 0))
  | .icoStart ch => some (.word (mkWord 0x3 ch 0))
  | .icoAddByte ch b => some (.word (mkWord 0x4 ch (0#12 ++ b)))
  | .icoIsReady ch => some (.word (mkWord 0x5 ch 0))
  | .icoSetPh ch v => some (.word (mkWord 0x6 ch (0#19 ++ BitVec.ofBool v)))
  | .icoDraw ch x y => some (.word (mkWord 0x7 ch (y ++ x)))
  | .icoRdPix ch i => some (.word (mkWord 0x8 ch (0#8 ++ i)))
  | .fadSample ch raw => some (.word (mkWord 0x9 ch (0#10 ++ raw)))
  | .encTick ch clk dt sw => some (.word (mkWord 0xA ch (0#17 ++ BitVec.ofBool sw ++ BitVec.ofBool dt ++ BitVec.ofBool clk)))
  | .encGetDelta ch => some (.word (mkWord 0xB ch 0))
  | .encWasPressed ch => some (.word (mkWord 0xC ch 0))
  | .statRead => some (.word (mkWord 0xD 0 0))
  | .statClear => some (.word (mkWord 0xE 0 0))
  | .reservedF => some (.word (mkWord 0xF 0 0))
  | .hsReq => some (.burst [Config.cmdHsReq])
  | .hsResp => some (.send [p.cmdHsResp])
  | .faderUpd ch position => some (.send [Config.cmdFaderUpd, ch, position])
  | .appName ch text => some (.burst (p.cmdAppName :: ch :: text))
  | .volume ch value => some (.burst [p.cmdVolume, ch, value])
  | .icon ch pixels => some (.burst (p.cmdIcon :: ch :: pixels))
  | .unrecognised b => some (.burst [b])
  | .tick _ => none
  | .rxFrame _ => none
  | .icoStream _ _ => none

/-- The requests of an operation: one, and for a pseudo-operation those of its members in the order issued (R110). -/
def encode (p : Params) (i : Instr) : List Request :=
  i.expand.filterMap (encodeOne p)

/-! ## Rows of the opcode table -/

/-- The request a table row's first byte stands for, every later byte 0: an inbound frame of its full length, or an
outbound message. -/
def wireTableRequest (p : Params) (cmd : Byte) : Request :=
  if p.recognised cmd then .burst (cmd :: List.replicate (inboundPlen p cmd) 0)
  else if cmd = p.cmdHsResp then .send [cmd]
  else if cmd = Config.cmdFaderUpd then .send [cmd, 0, 0]
  else .burst [cmd]

/-- The request a word of the opcode table stands for: 32 bits are an operation word, 8 bits a command byte. The
pseudo-operations have no bits. -/
def tableRequest (p : Params) (nbits w : Nat) : Option Request :=
  if nbits = 32 then some (.word (BitVec.ofNat 32 w))
  else if nbits = 8 then some (wireTableRequest p (BitVec.ofNat 8 w))
  else none

/-- The operation the decoder reads from a word of the opcode table, with the default command bytes. -/
def decodeTableWord (nbits w : Nat) : Option Instr :=
  match tableRequest Params.default nbits w with
  | some r => (decode Params.default r).toOption
  | none => none

end Sys2Proof
end

