-- ==== Sys2Proof/Machine/State.lean ====
section
/-! DEFINITION. The state of the block: every register of 10_state.md, the pixel memory, the output streams and the
result port; beside them what the model adds (the parameters, the input ports, the driver's trace and the count of
free draws); and the state right after reset (R52). -/

namespace Sys2Proof.Machine

/-- The encoder record of one channel (R21 to R27). -/
structure EncRec where
  /-- `enc_pos[c]`, the accumulated position counter, two's complement (R21). -/
  pos : Word
  /-- `enc_last[c]`, the last-emitted position (R22). -/
  last : Word
  /-- `enc_clk_prev[c]`, the last raw clock-line level (R23). -/
  clkPrev : Bool
  /-- `btn_state[c]`, the debounced button level (R24). -/
  btnState : Bool
  /-- `btn_raw_prev[c]`, the raw button level of the previous ENC.TICK (R25). -/
  btnRawPrev : Bool
  /-- `btn_t[c]`, the last button transition timestamp (R26). -/
  btnT : Time
  /-- `btn_pressed[c]`, the pending-press latch (R27). -/
  btnPressed : Bool
deriving DecidableEq, Repr

/-- The fader record of one channel (R30 to R32). -/
structure FadRec where
  /-- `fad_valid[c]`: 0 is the source's "invalid sentinel" (R30). -/
  valid : Bool
  /-- `fad_filt[c]`, the smoothed raw reading (R30). -/
  filt : BitVec 10
  /-- `fad_sent_valid[c]`: 0 is the source's sentinel "never sent" (R31). -/
  sentValid : Bool
  /-- `fad_sent[c]`, the last transmitted quantized value (R31). -/
  sent : Byte
  /-- `fad_t[c]`, the last sample timestamp (R32). -/
  t : Time
deriving DecidableEq, Repr

/-- `ico_phase[c]` (R39): 0 is awaiting high byte, 1 is awaiting low byte. -/
inductive Phase where
  | awaitingHigh
  | awaitingLow
deriving DecidableEq, Repr

/-- The icon record of one channel (R36 to R39); its pixels stand in the pixel memory. -/
structure IcoRec where
  /-- `ico_ready[c]` (R36). -/
  ready : Bool
  /-- `ico_placeholder[c]` (R37). -/
  placeholder : Bool
  /-- `ico_cursor[c]`, index of the next pixel to write, 0 to 4096 (R38). -/
  cursor : BitVec 13
  /-- `ico_phase[c]` (R39). -/
  phase : Phase
  /-- `ico_hi[c]`, the high-byte holding register (R39). -/
  hi : Byte
deriving DecidableEq, Repr

/-- The parser record (R40 to R42). -/
structure ParserRec where
  /-- `rx_active` (R40). -/
  active : Bool
  /-- `rx_cmd`, command byte of the frame in progress (R40). -/
  cmd : Byte
  /-- `rx_idx`, payload bytes consumed so far (R40). -/
  idx : BitVec 14
  /-- `rx_ch`, channel index of the frame in progress (R41). -/
  ch : Byte
  /-- `rx_buf[k]`, the payload buffer of a short frame (R42). -/
  buf : Vector Byte 64
deriving DecidableEq, Repr

/-- The events of the output stream `ev` (R48). -/
inductive Event where
  | appName (ch : Byte) (text : List Byte)
  | volume (ch : Byte) (value : Byte)
  | drawBitmap (ch : Byte) (x : BitVec 10) (y : BitVec 10)
deriving DecidableEq, Repr

/-- The levels on the input ports (R44, R45). They are inputs of every step and no state of the block. -/
structure Ports where
  /-- `now`, the current time (R44). -/
  now : Time
  /-- `uuid`, the device identifier (R45). -/
  uuid : BitVec 128
  /-- `uuid_valid`: the identity store has supplied the identifier (R45). -/
  uuidValid : Bool
deriving DecidableEq, Repr

/-- One line of the driver's trace (R109): the port levels it changes (none leaves the level as it is) and the
request. -/
structure Stimulus where
  now : Option Time
  uuid : Option (BitVec 128)
  uuidValid : Option Bool
  req : Request
deriving DecidableEq, Repr

/-- The pixel memory `ico_buf` (R35, R60): cells at strictly rising addresses. An address that is not listed has
not been written since reset and has no value (U1, log entries 3, 4). -/
abbrev Memory := List Host.Cell

/-- The state. The channel records are held for all 256 channel indexes a byte can name; those below NCH are the
block's (log entry 12). -/
structure State where
  /-- The parameters (R6), which nothing writes (log entry 1). -/
  params : Params
  /-- The encoder records (R20). -/
  enc : Vector EncRec 256
  /-- The fader records (R20). -/
  fad : Vector FadRec 256
  /-- The icon records (R20). -/
  ico : Vector IcoRec 256
  /-- The parser record (R20). -/
  rx : ParserRec
  /-- `STATUS[3:0]`, the sticky bits; the rest of STATUS is not stored (R46). -/
  status : BitVec 4
  /-- The pixel memory `ico_buf` (R35). -/
  mem : Memory
  /-- `tx`, the outbound byte stream, oldest byte first (R47). -/
  tx : List Byte
  /-- `ev`, the output event stream, oldest event first (R48). -/
  ev : List Event
  /-- `res`, the value the last operation returned (R49, log entry 7). -/
  res : Word
  /-- The levels on the input ports (R44, R45, log entry 8). -/
  ports : Ports
  /-- What the driver will issue, next line first (R13, R16, R109, log entry 2). -/
  trace : List Stimulus
  /-- The model's own count of free draws (log entry 3). -/
  drawn : Nat
deriving DecidableEq, Repr

/-- Why the machine stops with a fault. No operation faults: the block raises no exception and every operation is
defined on every state and every operand value (R15, R260), so there is no reason to list. Nobody raises one; safe. -/
inductive Fault
deriving DecidableEq, Repr

/-- Why a request has no meaning in the model. -/
inductive Refusal where
  /-- Raised by an arm of exec for an instruction that has no meaning yet; no arm raises it. Safe. -/
  | notModelled (mnemonic : String)
  /-- Raised by step for a request that decodes to no operation: an empty burst, or an outbound message the wire
  format does not have (log entries 9, 10). No operation word and no non-empty burst is one. Safe. -/
  | undecodable (why : DecodeError)
deriving DecidableEq, Repr

/-- An encoder record after reset (R52); the button lines are at the released level. -/
def EncRec.reset (p : Params) : EncRec where
  pos := 0
  last := 0
  clkPrev := true
  btnState := !p.pressedLevel
  btnRawPrev := !p.pressedLevel
  btnT := 0
  btnPressed := false

/-- A fader record after reset (R52). -/
def FadRec.reset : FadRec where
  valid := false
  filt := 0
  sentValid := false
  sent := 0
  t := 0

/-- An icon record after reset (R52). The spec gives `ico_hi` no value; 0 is the model's (log entry 5). -/
def IcoRec.reset : IcoRec where
  ready := false
  placeholder := false
  cursor := 0
  phase := .awaitingHigh
  hi := 0

/-- The parser record after reset (R52). The spec gives `rx_buf` no value; 0 is the model's (log entry 6). -/
def ParserRec.reset : ParserRec where
  active := false
  cmd := 0
  idx := 0
  ch := 0
  buf := Vector.replicate 64 0

/-- The state right after reset (R52, R290) with the parameters `p`: no pixel written, both streams empty, STATUS
clear. The port levels are 0, no identifier is presented and the trace is empty (log entries 2, 7, 8). -/
def State.resetWith (p : Params) : State where
  params := p
  enc := Vector.replicate 256 (EncRec.reset p)
  fad := Vector.replicate 256 FadRec.reset
  ico := Vector.replicate 256 IcoRec.reset
  rx := ParserRec.reset
  status := 0
  mem := []
  tx := []
  ev := []
  res := 0
  ports := { now := 0, uuid := 0, uuidValid := false }
  trace := []
  drawn := 0

/-- The state right after reset with the default parameters of R6. -/
def State.reset : State := State.resetWith Params.default

end Sys2Proof.Machine
end

