-- ==== Sys2Proof/Machine/Flags.lean ====
section
/-! DEFINITION. The flag computations: the recorded conditions and their bits of STATUS (R46, R261), the word
STAT.READ returns (R251), and what "ready" means to ICO.ISREADY and ICO.DRAW (R174, R177). -/

namespace Sys2Proof.Machine

/-- The recorded conditions (R261). -/
inductive Cond where
  /-- ERR_UNKNOWN_CMD, code 0. -/
  | unknownCmd
  /-- ERR_CH_RANGE, code 1. -/
  | chRange
  /-- ERR_NO_ID, code 2. -/
  | noId
  /-- ERR_BAD_OP, code 3. -/
  | badOp
deriving DecidableEq, Repr

/-- The cause code of a condition, which is the number of its bit in STATUS (R261). -/
def Cond.code : Cond → Nat
  | .unknownCmd => 0
  | .chRange => 1
  | .noId => 2
  | .badOp => 3

/-- The sticky bits with the bit of a condition set (R11, R265). -/
def stickySet (k : Cond) (bits : BitVec 4) : BitVec 4 := bits ||| (1#4 <<< k.code)

/-- STATUS as STAT.READ returns it: bit 8 is `rx_active`, bits 3:0 the sticky bits, the rest 0 (R46, R251). -/
def statusWord (rxActive : Bool) (bits : BitVec 4) : Word := 0#23 ++ BitVec.ofBool rxActive ++ 0#4 ++ bits

/-- What `isReady()` reports: complete, or the placeholder flag set (R174). -/
def iconShown (r : IcoRec) : Bool := r.ready || r.placeholder

end Sys2Proof.Machine
end

