-- ==== Sys2Proof/Machine/Operands.lean ====
section
/-! DEFINITION. Operands and results: the channel index, the clock, the identifier bytes, how a value goes on the
result port, and where a pixel lies. -/

namespace Sys2Proof.Machine

/-- A channel index names a channel of the block: `ch < NCH` (R20, R255). -/
abbrev channelExists (p : Params) (ch : Byte) : Prop := ch.toNat < p.nch

/-- `elapsed(t) = (now - t) mod 2^32` (R12). -/
def elapsed (now t : Time) : Nat := (now - t).toNat

/-- Identifier bytes 0 to 15, byte `k` being `uuid[8k+7:8k]` (R45, R101). -/
def uuidBytes (uuid : BitVec 128) : List Byte :=
  (List.range Config.uuidLen).map (fun k => uuid.extractLsb' (8 * k) 8)

/-- A flag on the result port: bit 0, the rest 0 (R107). -/
def flagResult (v : Bool) : Word := (BitVec.ofBool v).zeroExtend 32

/-- A pixel on the result port: bits 15:0, the rest 0 (R107). -/
def pixelResult (v : Pixel) : Word := v.zeroExtend 32

/-- The pixel of two consecutive stream bytes, high byte first: `(h << 8) | l` (R63, R100). -/
def pixelOf (h l : Byte) : Pixel := h ++ l

/-- Column of pixel index `i` (R61). -/
def pixelX (i : Nat) : Nat := i % Config.iconW

/-- Row of pixel index `i` (R61). -/
def pixelY (i : Nat) : Nat := i / Config.iconW

/-- Where the high byte of pixel `i` of channel `c` is held; its low byte is at the next address. The layout is the
model's and no operation shows it (R9, R60; log entry 4). -/
def pixelAddr (c : Byte) (i : Nat) : Nat := c.toNat * Config.iconBytes + 2 * i

end Sys2Proof.Machine
end

