-- ==== Sys2Proof/Machine/Ops.lean ====
section
/-! DEFINITION. The named operations over registers, memory, streams and ports that every meaning is built from. -/

namespace Sys2Proof.Machine

/-! ## Registers: one place reads a channel's record and one writes it (R8, R20) -/

def State.encAt (s : State) (c : Byte) : EncRec := s.enc[c.toNat]'c.isLt

def State.setEnc (s : State) (c : Byte) (r : EncRec) : State := { s with enc := s.enc.set c.toNat r c.isLt }

def State.fadAt (s : State) (c : Byte) : FadRec := s.fad[c.toNat]'c.isLt

def State.setFad (s : State) (c : Byte) (r : FadRec) : State := { s with fad := s.fad.set c.toNat r c.isLt }

def State.icoAt (s : State) (c : Byte) : IcoRec := s.ico[c.toNat]'c.isLt

def State.setIco (s : State) (c : Byte) (r : IcoRec) : State := { s with ico := s.ico.set c.toNat r c.isLt }

def State.setRx (s : State) (r : ParserRec) : State := { s with rx := r }

/-! ## The result port and the output streams (R10) -/

/-- `return v`. -/
def State.ret (s : State) (v : Word) : State := { s with res := v }

/-- `tx.append(b0 b1 ...)`: one indivisible message (R47). -/
def State.sendMessage (s : State) (message : List Byte) : State := { s with tx := s.tx ++ message }

/-- `ev.append(E)` (R48). -/
def State.emit (s : State) (e : Event) : State := { s with ev := s.ev ++ [e] }

/-! ## In place of taking an exception and returning from one (R265, R266) -/

/-- `flag <NAME>`: a condition is met. Its bit of STATUS is set and nothing else happens: nothing is saved, no mode
changes, control goes nowhere (R11, R265). -/
def State.flag (s : State) (k : Cond) : State := { s with status := stickySet k s.status }

/-- The driver's acknowledgement: all four sticky bits are cleared at once (R252, R266). -/
def State.acknowledge (s : State) : State := { s with status := 0 }

/-- The channel check every operation with a channel operand begins with: out of range, the condition is flagged,
nothing else is read or written and 0 is returned (R255). -/
def State.withChannel (s : State) (ch : Byte) (body : State → State) : State :=
  if channelExists s.params ch then body s else (s.flag .chRange).ret 0

/-! ## The pixel memory -/

/-- The canonical form: addresses strictly rising. Unlisted addresses have no value, so no entry is redundant. -/
abbrev Memory.wf (m : Memory) : Prop := m.Pairwise (fun x y => x.1 < y.1)

/-- One byte, or none where nothing has been written. -/
def Memory.byteAt : Memory → Nat → Option Byte
  | [], _ => none
  | (k, v) :: rest, a => if k = a then some v else Memory.byteAt rest a

/-- Store one byte, keeping the addresses in order. -/
def Memory.store : Memory → Nat → Byte → Memory
  | [], a, v => [(a, v)]
  | (k, w) :: rest, a, v =>
    if a < k then (a, v) :: (k, w) :: rest
    else if a = k then (a, v) :: rest
    else (k, w) :: Memory.store rest a v

/-- `MemRead(c, i, 2)` (R9), none where the pixel has not been written. -/
def Memory.pixelAt (m : Memory) (c : Byte) (i : Nat) : Option Pixel :=
  match Memory.byteAt m (pixelAddr c i), Memory.byteAt m (pixelAddr c i + 1) with
  | some h, some l => some (pixelOf h l)
  | _, _ => none

/-- `MemWrite(c, i, 2, {h, l})` (R9): both bytes in one store (R68). -/
def Memory.storePixel (m : Memory) (c : Byte) (i : Nat) (h l : Byte) : Memory :=
  Memory.store (Memory.store m (pixelAddr c i) h) (pixelAddr c i + 1) l

/-- Write pixel `i` of channel `c`. -/
def State.writePixel (s : State) (c : Byte) (i : Nat) (h l : Byte) : State :=
  { s with mem := Memory.storePixel s.mem c i h l }

/-- Return pixel `i` of channel `c`. A pixel not written since reset has no value: any value is drawn, and the next
draw need not agree (R178, U1; log entry 3). -/
def State.retPixel (s : State) (c : Byte) (i : Nat) : State :=
  match Memory.pixelAt s.mem c i with
  | some v => s.ret (pixelResult v)
  | none => { s with res := pixelResult (Config.freePixel s.drawn), drawn := s.drawn + 1 }

/-! ## The input ports and the trace -/

/-- The ports take the levels a trace line gives; a level it leaves out holds (R109). -/
def Ports.drive (p : Ports) (x : Stimulus) : Ports where
  now := x.now.getD p.now
  uuid := x.uuid.getD p.uuid
  uuidValid := x.uuidValid.getD p.uuidValid

/-- A trace line reaches the block: it leaves the trace and the ports take its levels, which the operation samples
(R12, R109). -/
def State.accept (s : State) (x : Stimulus) (rest : List Stimulus) : State :=
  { s with ports := s.ports.drive x, trace := rest }

/-- A trace line that carries the request alone and leaves every port as it is. -/
def Stimulus.ofRequest (r : Request) : Stimulus where
  now := none
  uuid := none
  uuidValid := none
  req := r

/-- The word of the opcode table is put in front of the trace; a row without bits changes nothing. -/
def State.placeTableWord (s : State) (nbits w : Nat) : State :=
  match tableRequest s.params nbits w with
  | some r => { s with trace := Stimulus.ofRequest r :: s.trace }
  | none => s

end Sys2Proof.Machine
end

