-- ==== Sys2Proof/Machine/System.lean ====
section
/-! DEFINITION. The operations of 44_system.md that belong to no unit: NOP, STAT.READ, STAT.CLEAR and the reserved
code 0xF. -/

namespace Sys2Proof.Machine

/-- NOP (R250). -/
def execNop (s : State) : Host.Outcome State Fault Refusal :=
  .next (s.ret 0)

/-- STAT.READ (R251). -/
def execStatRead (s : State) : Host.Outcome State Fault Refusal :=
  .next (s.ret (statusWord s.rx.active s.status))

/-- STAT.CLEAR (R252). -/
def execStatClear (s : State) : Host.Outcome State Fault Refusal :=
  .next (s.acknowledge.ret 0)

/-- The reserved code 0xF: the flag and nothing else (R253, log entry 15). -/
def execReservedF (s : State) : Host.Outcome State Fault Refusal :=
  .next ((s.flag .badOp).ret 0)

end Sys2Proof.Machine
end

