-- ==== Sys2Proof/Machine/Encoder.lean ====
section
/-! DEFINITION. EncoderDecoder (43_encoder.md): the rotation decode, the button debounce and the operations
ENC.TICK, ENC.GETDELTA and ENC.WASPRESSED. -/

namespace Sys2Proof.Machine

/-- `Rot(c, clk, dt)` (R221): a rising edge of the clock line steps the counter, up where the data line differs from
the clock line and down where it does not. -/
def rot (r : EncRec) (clk dt : Bool) : EncRec :=
  { r with
    pos := if !r.clkPrev && clk then (if dt != clk then r.pos + 1 else r.pos - 1) else r.pos
    clkPrev := clk }

/-- The debounce timer (R222): any raw level change restarts it. -/
def timerAfter (now : Time) (r : EncRec) (sw : Bool) : Time := if sw != r.btnRawPrev then now else r.btnT

/-- A level is accepted on this tick (R222): stable strictly longer than DEBOUNCE_WINDOW, and not the debounced
level already. -/
def levelAccepted (now : Time) (r : EncRec) (sw : Bool) : Bool :=
  decide (Config.debounceWindow < elapsed now (timerAfter now r sw)) && sw != r.btnState

/-- `Btn(c, sw)` (R222). -/
def btn (pressedLevel : Bool) (now : Time) (r : EncRec) (sw : Bool) : EncRec :=
  { r with
    btnT := timerAfter now r sw
    btnState := if levelAccepted now r sw then sw else r.btnState
    btnPressed := r.btnPressed || (levelAccepted now r sw && sw == pressedLevel)
    btnRawPrev := sw }

/-- One ENC.TICK on the state, with its channel check and result (R220, R255). -/
def State.tickOp (s : State) (ch : Byte) (clk dt sw : Bool) : State :=
  s.withChannel ch (fun s =>
    (s.setEnc ch (btn s.params.pressedLevel s.ports.now (rot (s.encAt ch) clk dt) sw)).ret 0)

/-- ENC.TICK (R220). -/
def execEncTick (ch : Byte) (clk dt sw : Bool) (s : State) : Host.Outcome State Fault Refusal :=
  .next (s.tickOp ch clk dt sw)

/-- ENC.GETDELTA (R224). -/
def execEncGetDelta (ch : Byte) (s : State) : Host.Outcome State Fault Refusal :=
  .next (s.withChannel ch (fun s =>
    let r := s.encAt ch
    (s.setEnc ch { r with last := r.pos }).ret (r.pos - r.last)))

/-- ENC.WASPRESSED (R225). -/
def execEncWasPressed (ch : Byte) (s : State) : Host.Outcome State Fault Refusal :=
  .next (s.withChannel ch (fun s =>
    let r := s.encAt ch
    (s.setEnc ch { r with btnPressed := false }).ret (flagResult r.btnPressed)))

end Sys2Proof.Machine
end

