-- ==== Sys2Proof/Machine/Fader.lean ====
section
/-! DEFINITION. FaderSampler (42_fader.md): the filter, the quantiser, the deadband gate and FAD.SAMPLE. -/

namespace Sys2Proof.Machine

/-- `Filt(c, raw)` (R202), on the fader's record: the first sample seeds the filter. -/
def filt (r : FadRec) (raw : BitVec 10) : BitVec 10 :=
  if r.valid then
    BitVec.ofNat 10 ((r.filt.toNat * Config.filtNum + raw.toNat) / Config.filtDen)
  else raw

/-- `Quant(f)` (R203). -/
def quant (f : BitVec 10) : Byte := BitVec.ofNat 8 (f.toNat * Config.outMax / Config.adcMax)

/-- `abs(a - b)` of two output values (R204). -/
def distance (a b : Byte) : Nat := ((a.toNat : Int) - (b.toNat : Int)).natAbs

/-- The gate's test (R204): never sent, or moved by more than DEADBAND from the last value sent. -/
def gateOpens (deadband : Nat) (r : FadRec) (q : Byte) : Bool :=
  !r.sentValid || decide (deadband < distance q r.sent)

/-- `Gate(c, q)` (R204). -/
def State.gate (s : State) (c : Byte) (q : Byte) : State :=
  if gateOpens s.params.deadband (s.fadAt c) q then
    (s.setFad c { s.fadAt c with sent := q, sentValid := true }).sendMessage (faderUpdMessage c q)
  else s

/-- The rate limit (R201): the channel is sampled when at least SAMPLE_INTERVAL has elapsed. -/
def sampleDue (now : Time) (r : FadRec) : Bool := decide (Config.sampleInterval ≤ elapsed now r.t)

/-- One FAD.SAMPLE on the state, with its channel check and result (R200, R255). -/
def State.sampleOp (s : State) (ch : Byte) (raw : BitVec 10) : State :=
  s.withChannel ch (fun s =>
    let r := s.fadAt ch
    if sampleDue s.ports.now r then
      let f := filt r raw
      ((s.setFad ch { r with t := s.ports.now, filt := f, valid := true }).gate ch (quant f)).ret 0
    else s.ret 0)

/-- FAD.SAMPLE (R200). -/
def execFadSample (ch : Byte) (raw : BitVec 10) (s : State) : Host.Outcome State Fault Refusal :=
  .next (s.sampleOp ch raw)

end Sys2Proof.Machine
end

