-- ==== Sys2Proof/Machine/Tick.lean ====
section
/-! DEFINITION. The pseudo-operation TICK (R254): one pass of the driver's periodic loop over every channel. -/

namespace Sys2Proof.Machine

/-- FAD.SAMPLE for channels `c`, `c + 1`, … ascending, one for each operand group (R254). -/
def State.sampleAll (s : State) : Nat → List TickInput → State
  | _, [] => s
  | c, x :: rest => State.sampleAll (s.sampleOp (BitVec.ofNat 8 c) x.raw) (c + 1) rest

/-- ENC.TICK for channels `c`, `c + 1`, … ascending, one for each operand group (R254). -/
def State.tickAll (s : State) : Nat → List TickInput → State
  | _, [] => s
  | c, x :: rest => State.tickAll (s.tickOp (BitVec.ofNat 8 c) x.clk x.dt x.sw) (c + 1) rest

/-- TICK (R254): the faders of all channels, then the encoders, at one value of `now` (log entries 11, 14). -/
def execTick (inputs : List TickInput) (s : State) : Host.Outcome State Fault Refusal :=
  .next ((s.sampleAll 0 inputs).tickAll 0 inputs)

end Sys2Proof.Machine
end

