-- ==== Sys2Proof/Machine/Icon.lean ====
section
/-! DEFINITION. IconAssembler (41_icon.md): the two functions the parser shares, and the operations ICO.START to
ICO.RDPIX with the pseudo-operation ICO.STREAM. -/

namespace Sys2Proof.Machine

/-- `IcoStart(c)` (R170): pixels and `ico_hi[c]` stay. -/
def State.icoStart (s : State) (c : Byte) : State :=
  s.setIco c { s.icoAt c with cursor := 0, ready := false, placeholder := false, phase := .awaitingHigh }

/-- The second half of `IcoAddByte(c, b)` (R171), awaiting the low byte: the pixel is written while the cursor is
within bounds, and `ico_ready[c]` is set when the advanced cursor reaches NPIX. -/
def State.icoLowByte (s : State) (c : Byte) (b : Byte) : State :=
  let r := s.icoAt c
  if r.cursor.toNat < Config.npix then
    (s.writePixel c r.cursor.toNat r.hi b).setIco c
      { r with
        cursor := r.cursor + 1
        ready := r.ready || decide ((r.cursor + 1).toNat = Config.npix)
        phase := .awaitingHigh }
  else s.setIco c { r with phase := .awaitingHigh }

/-- `IcoAddByte(c, b)` (R171), the literal state machine after completion too (R173). -/
def State.icoAddByte (s : State) (c : Byte) (b : Byte) : State :=
  match (s.icoAt c).phase with
  | .awaitingHigh => s.setIco c { s.icoAt c with hi := b, phase := .awaitingLow }
  | .awaitingLow => s.icoLowByte c b

/-- One ICO.ADDBYTE on the state, with its channel check and result (R171, R255). -/
def State.addByteOp (s : State) (ch b : Byte) : State :=
  s.withChannel ch (fun s => (s.icoAddByte ch b).ret 0)

/-- ICO.START (R170). -/
def execIcoStart (ch : Byte) (s : State) : Host.Outcome State Fault Refusal :=
  .next (s.withChannel ch (fun s => (s.icoStart ch).ret 0))

/-- ICO.ADDBYTE (R171). -/
def execIcoAddByte (ch b : Byte) (s : State) : Host.Outcome State Fault Refusal :=
  .next (s.addByteOp ch b)

/-- ICO.ISREADY (R174). -/
def execIcoIsReady (ch : Byte) (s : State) : Host.Outcome State Fault Refusal :=
  .next (s.withChannel ch (fun s => s.ret (flagResult (iconShown (s.icoAt ch)))))

/-- ICO.SETPH (R175). -/
def execIcoSetPh (ch : Byte) (v : Bool) (s : State) : Host.Outcome State Fault Refusal :=
  .next (s.withChannel ch (fun s => (s.setIco ch { s.icoAt ch with placeholder := v }).ret 0))

/-- ICO.DRAW (R177). -/
def execIcoDraw (ch : Byte) (x y : BitVec 10) (s : State) : Host.Outcome State Fault Refusal :=
  .next (s.withChannel ch (fun s =>
    (if iconShown (s.icoAt ch) then s.emit (.drawBitmap ch x y) else s).ret 0))

/-- ICO.RDPIX (R178). -/
def execIcoRdPix (ch : Byte) (i : BitVec 12) (s : State) : Host.Outcome State Fault Refusal :=
  .next (s.withChannel ch (fun s => s.retPixel ch i.toNat))

/-- ICO.STREAM (R110): ICO.ADDBYTE for each byte, in order (log entry 11). -/
def execIcoStream (ch : Byte) (bytes : List Byte) (s : State) : Host.Outcome State Fault Refusal :=
  .next (bytes.foldl (fun s b => s.addByteOp ch b) s)

end Sys2Proof.Machine
end

