-- ==== Sys2Proof/Machine/Wire.lean ====
section
/-! DEFINITION. WireCodec and IdentityHandshake (40_wire.md): the parser of the inbound byte stream, the handshake,
the operations RX.BYTE and RX.REARM, and the six wire commands with the unrecognised byte. -/

namespace Sys2Proof.Machine

/-- `HsRespond()` (R136): the ports `uuid` and `uuid_valid` are sampled here. -/
def State.hsRespond (s : State) : State :=
  if s.ports.uuidValid then s.sendMessage (hsRespMessage s.params (uuidBytes s.ports.uuid))
  else s.flag .noId

/-- `RxIdle(b)` (R131): the byte is a command byte. -/
def State.rxIdle (s : State) (b : Byte) : State :=
  if b = Config.cmdHsReq then s.hsRespond
  else if s.params.framed b then s.setRx { s.rx with cmd := b, idx := 0, active := true }
  else s.flag .unknownCmd

/-- The channel field of a frame (R132, R145). -/
def State.rxChannel (s : State) (b : Byte) : State :=
  let s' := s.setRx { s.rx with ch := b }
  if ¬ channelExists s.params b then s'.flag .chRange
  else if s.rx.cmd = s.params.cmdIcon then s'.icoStart b
  else s'

/-- `RxData(b)` (R133), `rx_idx >= 1`. A text byte beyond the buffer is not stored; no reachable state has one
(R53 (c), log entry 13). -/
def State.rxData (s : State) (b : Byte) : State :=
  if s.rx.cmd = s.params.cmdAppName then
    s.setRx { s.rx with buf := s.rx.buf.setIfInBounds (s.rx.idx.toNat - 1) b }
  else if s.rx.cmd = s.params.cmdVolume then s.setRx { s.rx with buf := s.rx.buf.set 0 b }
  else if s.rx.cmd = s.params.cmdIcon then
    if channelExists s.params s.rx.ch then s.icoAddByte s.rx.ch b else s
  else s

/-- `min(v, VOL_MAX)` (R134). -/
def clampVolume (v : Byte) : Byte := BitVec.ofNat 8 (min v.toNat Config.volMax)

/-- `RxDone()` (R134): the event of a complete frame, and the parser is idle again. -/
def State.rxDone (s : State) : State :=
  let s' :=
    if channelExists s.params s.rx.ch then
      if s.rx.cmd = s.params.cmdAppName then s.emit (.appName s.rx.ch s.rx.buf.toList)
      else if s.rx.cmd = s.params.cmdVolume then s.emit (.volume s.rx.ch (clampVolume s.rx.buf[0]))
      else s
    else s
  s'.setRx { s'.rx with active := false }

/-- The payload byte count advances, and a complete payload ends the frame (R132). -/
def State.rxAdvance (s : State) : State :=
  let s' := s.setRx { s.rx with idx := s.rx.idx + 1 }
  if s'.rx.idx.toNat = inboundPlen s'.params s'.rx.cmd then s'.rxDone else s'

/-- `RxPayload(b)` (R132). -/
def State.rxPayload (s : State) (b : Byte) : State :=
  (if s.rx.idx = 0 then s.rxChannel b else s.rxData b).rxAdvance

/-- One RX.BYTE on the state (R130). -/
def State.rxByteOp (s : State) (b : Byte) : State :=
  (if s.rx.active then s.rxPayload b else s.rxIdle b).ret 0

/-- Consecutive inbound bytes, each one RX.BYTE, in order (R110). -/
def State.rxBytes (s : State) (bytes : List Byte) : State := bytes.foldl State.rxByteOp s

/-- RX.BYTE (R130). -/
def execRxByte (b : Byte) (s : State) : Host.Outcome State Fault Refusal :=
  .next (s.rxByteOp b)

/-- RX.REARM (R142). -/
def execRxRearm (s : State) : Host.Outcome State Fault Refusal :=
  .next ((s.setRx { s.rx with active := false }).ret 0)

/-- HS_REQ (R135): its one byte through the parser (log entry 9). -/
def execHsReq (s : State) : Host.Outcome State Fault Refusal :=
  .next (s.rxBytes [Config.cmdHsReq])

/-- HS_RESP (R136): the announcement, as the handshake makes it (log entry 10). -/
def execHsResp (s : State) : Host.Outcome State Fault Refusal :=
  .next (s.hsRespond.ret 0)

/-- FADER_UPD (R140): the message, as FAD.SAMPLE sends it (log entry 10). -/
def execFaderUpd (ch position : Byte) (s : State) : Host.Outcome State Fault Refusal :=
  .next (s.withChannel ch (fun s => (s.sendMessage (faderUpdMessage ch position)).ret 0))

/-- APP_NAME (R137): the bytes of its frame through the parser (log entry 9). -/
def execAppName (ch : Byte) (text : List Byte) (s : State) : Host.Outcome State Fault Refusal :=
  .next (s.rxBytes (s.params.cmdAppName :: ch :: text))

/-- VOLUME (R138): the bytes of its frame through the parser (log entry 9). -/
def execVolume (ch value : Byte) (s : State) : Host.Outcome State Fault Refusal :=
  .next (s.rxBytes [s.params.cmdVolume, ch, value])

/-- ICON (R139): the bytes of its frame through the parser (log entry 9). -/
def execIcon (ch : Byte) (pixels : List Byte) (s : State) : Host.Outcome State Fault Refusal :=
  .next (s.rxBytes (s.params.cmdIcon :: ch :: pixels))

/-- An unrecognised command byte (R141): the byte through the parser (log entry 9). -/
def execUnrecognised (b : Byte) (s : State) : Host.Outcome State Fault Refusal :=
  .next (s.rxBytes [b])

/-- RX.FRAME (R110): RX.BYTE for each byte, in order (log entry 11). -/
def execRxFrame (bytes : List Byte) (s : State) : Host.Outcome State Fault Refusal :=
  .next (s.rxBytes bytes)

end Sys2Proof.Machine
end

