-- ==== Sys2Proof/Machine/Dispatch.lean ====
section
/-! DEFINITION. One arm per constructor of Instr: the operation's meaning. -/

namespace Sys2Proof.Machine

def exec (i : Instr) (s : State) : Host.Outcome State Fault Refusal :=
  match i with
  | .nop => Sys2Proof.Machine.execNop s
  | .rxByte b => Sys2Proof.Machine.execRxByte b s
  | .rxRearm => Sys2Proof.Machine.execRxRearm s
  | .icoStart ch => Sys2Proof.Machine.execIcoStart ch s
  | .icoAddByte ch b => Sys2Proof.Machine.execIcoAddByte ch b s
  | .icoIsReady ch => Sys2Proof.Machine.execIcoIsReady ch s
  | .icoSetPh ch v => Sys2Proof.Machine.execIcoSetPh ch v s
  | .icoDraw ch x y => Sys2Proof.Machine.execIcoDraw ch x y s
  | .icoRdPix ch pixel => Sys2Proof.Machine.execIcoRdPix ch pixel s
  | .fadSample ch raw => Sys2Proof.Machine.execFadSample ch raw s
  | .encTick ch clk dt sw => Sys2Proof.Machine.execEncTick ch clk dt sw s
  | .encGetDelta ch => Sys2Proof.Machine.execEncGetDelta ch s
  | .encWasPressed ch => Sys2Proof.Machine.execEncWasPressed ch s
  | .statRead => Sys2Proof.Machine.execStatRead s
  | .statClear => Sys2Proof.Machine.execStatClear s
  | .reservedF => Sys2Proof.Machine.execReservedF s
  | .hsReq => Sys2Proof.Machine.execHsReq s
  | .hsResp => Sys2Proof.Machine.execHsResp s
  | .faderUpd ch position => Sys2Proof.Machine.execFaderUpd ch position s
  | .appName ch text => Sys2Proof.Machine.execAppName ch text s
  | .volume ch value => Sys2Proof.Machine.execVolume ch value s
  | .icon ch pixels => Sys2Proof.Machine.execIcon ch pixels s
  | .unrecognised b => Sys2Proof.Machine.execUnrecognised b s
  | .tick inputs => Sys2Proof.Machine.execTick inputs s
  | .rxFrame bytes => Sys2Proof.Machine.execRxFrame bytes s
  | .icoStream ch bytes => Sys2Proof.Machine.execIcoStream ch bytes s

end Sys2Proof.Machine
end

