-- ==== Sys2Proof/Machine/Step.lean ====
section
/-! DEFINITION. One step: the next line of the driver's trace is taken, its port levels are sampled, its request is
decoded and the operation runs, as one atomic transition (R13, R69, R72). -/

namespace Sys2Proof.Machine

/-- One step. With nothing asked of the block nothing changes: time passing without operations has no effect (R222,
R271; log entry 2). -/
def step (s : State) : Host.Outcome State Fault Refusal :=
  match s.trace with
  | [] => .next s
  | x :: rest =>
    match decode s.params x.req with
    | .ok i => exec i (s.accept x rest)
    | .error why => .refused (.undecodable why)

/-- The word of an opcode-table row is the next request: it stands in front of the trace and no port changes. -/
def State.withFetchWord (s : State) (nbits w : Nat) : State := s.placeTableWord nbits w

end Sys2Proof.Machine
end

