-- ==== Sys2Proof/Safety.lean ====
section
/-! DEFINITION. What claims are stated in: the invariants of 10_state.md (R53) with those the pixel memory adds, runs
of operations (R16), what the environment owes (R44, R297), and when two states cannot be told apart (U2 to U4). -/

namespace Sys2Proof

/-! ## Which operations do what -/

/-- The operations that take a channel operand and begin with the channel check, with that operand (R255). -/
def Instr.channelOperand : Instr → Option Byte
  | .icoStart ch | .icoAddByte ch _ | .icoIsReady ch | .icoSetPh ch _ | .icoDraw ch _ _ | .icoRdPix ch _ => some ch
  | .fadSample ch _ | .encTick ch _ _ _ | .encGetDelta ch | .encWasPressed ch => some ch
  | .nop | .rxByte _ | .rxRearm | .statRead | .statClear | .reservedF | .hsReq | .hsResp | .faderUpd _ _ => none
  | .appName _ _ | .volume _ _ | .icon _ _ | .unrecognised _ | .tick _ | .rxFrame _ | .icoStream _ _ => none

/-- The operations that give inbound bytes to the parser. -/
def Instr.feedsParser : Instr → Bool
  | .rxByte _ | .hsReq | .appName _ _ | .volume _ _ | .icon _ _ | .unrecognised _ | .rxFrame _ => true
  | .nop | .rxRearm | .icoStart _ | .icoAddByte _ _ | .icoIsReady _ | .icoSetPh _ _ | .icoDraw _ _ _ => false
  | .icoRdPix _ _ | .fadSample _ _ | .encTick _ _ _ _ | .encGetDelta _ | .encWasPressed _ | .statRead => false
  | .statClear | .reservedF | .hsResp | .faderUpd _ _ | .tick _ | .icoStream _ _ => false

/-- The operations that are one atomic operation of the driver: the sixteen of R105. -/
def Instr.isLocal : Instr → Bool
  | .nop | .rxByte _ | .rxRearm | .icoStart _ | .icoAddByte _ _ | .icoIsReady _ | .icoSetPh _ _ | .icoDraw _ _ _ => true
  | .icoRdPix _ _ | .fadSample _ _ | .encTick _ _ _ _ | .encGetDelta _ | .encWasPressed _ => true
  | .statRead | .statClear | .reservedF => true
  | .hsReq | .hsResp | .faderUpd _ _ | .appName _ _ | .volume _ _ | .icon _ _ | .unrecognised _ | .tick _ => false
  | .rxFrame _ | .icoStream _ _ => false

/-- A whole inbound frame (R92): one recognised command with its whole payload. -/
def Instr.isFrame : Instr → Bool
  | .hsReq | .appName _ _ | .volume _ _ | .icon _ _ => true
  | .nop | .rxByte _ | .rxRearm | .icoStart _ | .icoAddByte _ _ | .icoIsReady _ | .icoSetPh _ _ => false
  | .icoDraw _ _ _ | .icoRdPix _ _ | .fadSample _ _ | .encTick _ _ _ _ | .encGetDelta _ | .encWasPressed _ => false
  | .statRead | .statClear | .reservedF | .hsResp | .faderUpd _ _ | .unrecognised _ | .tick _ | .rxFrame _ => false
  | .icoStream _ _ => false

end Sys2Proof

namespace Sys2Proof.Machine

/-! ## Invariants -/

/-- R53 (a) and (b). -/
abbrev IcoRec.ok (r : IcoRec) : Prop :=
  r.cursor.toNat ≤ Config.npix ∧ (r.ready = true ↔ r.cursor.toNat = Config.npix)

/-- R53 (d). -/
abbrev FadRec.ok (r : FadRec) : Prop := r.sentValid = true → r.valid = true

/-- R53 (c). -/
abbrev ParserRec.ok (p : Params) (r : ParserRec) : Prop :=
  r.active = true → p.framed r.cmd ∧ r.idx.toNat < inboundPlen p r.cmd

/-- What holds in every reachable state. R53 (e) holds by the widths of the registers. -/
structure State.Inv (s : State) : Prop where
  /-- The parameters are as R6 asks. -/
  params : s.params.wf
  /-- The pixel memory keeps its canonical form. -/
  memory : Memory.wf s.mem
  /-- Every listed byte lies in the icon space of a channel below NCH (R60, R71). -/
  inSpace : ∀ cell ∈ s.mem, cell.1 < s.params.nch * Config.iconBytes
  /-- Never only one byte of a pixel is held (R68). -/
  wholePixels : ∀ (c : Byte) (i : Nat), i < Config.npix →
    ((Memory.byteAt s.mem (pixelAddr c i)).isSome ↔ (Memory.byteAt s.mem (pixelAddr c i + 1)).isSome)
  /-- R53 (a), (b). -/
  icons : ∀ c : Byte, (s.icoAt c).ok
  /-- Every pixel below the cursor has been written (R38). -/
  written : ∀ (c : Byte) (i : Nat), i < (s.icoAt c).cursor.toNat → (Memory.pixelAt s.mem c i).isSome
  /-- R53 (d). -/
  faders : ∀ c : Byte, (s.fadAt c).ok
  /-- R53 (c). -/
  parser : s.rx.ok s.params
  /-- The records at and above NCH, which the block does not have, never move (log entry 12). -/
  absent : ∀ c : Byte, ¬ channelExists s.params c →
    s.encAt c = EncRec.reset s.params ∧ s.fadAt c = FadRec.reset ∧ s.icoAt c = IcoRec.reset

/-! ## Runs (R16) -/

/-- The state with the port `now` at a value. -/
def State.atTime (s : State) (now : Time) : State := { s with ports := { s.ports with now := now } }

/-- Operations one after another, every port level as it is, up to the first that stops. -/
def runOps : List Instr → State → Host.Outcome State Fault Refusal
  | [], s => .next s
  | i :: rest, s =>
    match exec i s with
    | .next s' => runOps rest s'
    | .fault r => .fault r
    | .refused r => .refused r

/-- Operations one after another, each at its own value of `now`. -/
def runAt : List (Time × Instr) → State → Host.Outcome State Fault Refusal
  | [], s => .next s
  | (now, i) :: rest, s =>
    match exec i (s.atTime now) with
    | .next s' => runAt rest s'
    | .fault r => .fault r
    | .refused r => .refused r

/-- A step taken under a change of the state: the change is made to the next state. -/
def mapNext (f : State → State) : Host.Outcome State Fault Refusal → Host.Outcome State Fault Refusal
  | .next s => .next (f s)
  | .fault r => .fault r
  | .refused r => .refused r

/-! ## What an operation stores, counts and sends -/

/-- The pixel the next byte for the assembler of channel `c` completes and stores, if it stores one (R171). -/
def State.nextStore (s : State) (c : Byte) : Option (Byte × Nat) :=
  if (s.icoAt c).phase = .awaitingLow ∧ (s.icoAt c).cursor.toNat < Config.npix then
    some (c, (s.icoAt c).cursor.toNat)
  else none

/-- The pixel an operation of the driver stores: by ICO.ADDBYTE, or by RX.BYTE for a pixel byte of an ICON frame
(R60, R133). -/
def State.storeOf (s : State) : Instr → Option (Byte × Nat)
  | .icoAddByte ch _ => if channelExists s.params ch then s.nextStore ch else none
  | .rxByte _ =>
    if s.rx.active = true ∧ s.rx.cmd = s.params.cmdIcon ∧ s.rx.idx ≠ 0 ∧ channelExists s.params s.rx.ch then
      s.nextStore s.rx.ch
    else none
  | .nop | .rxRearm | .icoStart _ | .icoIsReady _ | .icoSetPh _ _ | .icoDraw _ _ _ | .icoRdPix _ _ => none
  | .fadSample _ _ | .encTick _ _ _ _ | .encGetDelta _ | .encWasPressed _ | .statRead | .statClear => none
  | .reservedF | .hsReq | .hsResp | .faderUpd _ _ | .appName _ _ | .volume _ _ | .icon _ _ => none
  | .unrecognised _ | .tick _ | .rxFrame _ | .icoStream _ _ => none

/-- The table of R223: the change of `enc_pos` from the previous clock level, the clock level and the data level. -/
def rotDelta : Bool → Bool → Bool → Int
  | false, true, false => 1
  | false, true, true => -1
  | false, false, _ => 0
  | true, _, _ => 0

/-- The net number of counted steps of a sequence of ticks (`clk`, `dt`), from a previous clock level. -/
def netSteps : Bool → List (Bool × Bool) → Int
  | _, [] => 0
  | clkPrev, (clk, dt) :: rest => rotDelta clkPrev clk dt + netSteps clk rest

/-- The records of channel `d` put in place of what they were. -/
def State.replaceChannel (s : State) (d : Byte) (e : EncRec) (f : FadRec) (g : IcoRec) : State :=
  ((s.setEnc d e).setFad d f).setIco d g

/-- Between emissions the quantised value lags the last value sent by at most DEADBAND (R207). -/
def State.lagBounded (s : State) (c : Byte) : Prop :=
  (s.fadAt c).valid = true → (s.fadAt c).sentValid = true ∧
    (((s.fadAt c).filt.toNat * 255 / 1023 : Int) - ((s.fadAt c).sent.toNat : Int)).natAbs ≤ s.params.deadband

/-- Sample times each at least SAMPLE_INTERVAL after the one before, so that every sample is taken (R201). -/
def samplesDue : Time → List Time → Prop
  | _, [] => True
  | last, t :: rest => 20 ≤ (t - last).toNat ∧ samplesDue t rest

/-- The events a whole inbound frame delivers (R137 to R139). -/
def frameEvents (p : Params) : Instr → List Event
  | .appName ch text => if channelExists p ch then [.appName ch text] else []
  | .volume ch value => if channelExists p ch then [.volume ch (BitVec.ofNat 8 (min value.toNat 100))] else []
  | .nop | .rxByte _ | .rxRearm | .icoStart _ | .icoAddByte _ _ | .icoIsReady _ | .icoSetPh _ _ => []
  | .icoDraw _ _ _ | .icoRdPix _ _ | .fadSample _ _ | .encTick _ _ _ _ | .encGetDelta _ | .encWasPressed _ => []
  | .statRead | .statClear | .reservedF | .hsReq | .hsResp | .faderUpd _ _ | .icon _ _ | .unrecognised _ => []
  | .tick _ | .rxFrame _ | .icoStream _ _ => []

/-- The announcement of R94 with its fields in order. -/
def announcement (p : Params) (uuid : BitVec 128) : List Byte :=
  [p.cmdHsResp] ++ p.magic.toList ++ [p.deviceType] ++
    (List.range 16).map (fun k => uuid.extractLsb' (8 * k) 8) ++ [p.verMajor, p.verMinor]

/-! ## What the environment owes -/

/-- The bytes of a whole inbound frame, R93 and R96 to R98. -/
def frameBytes (p : Params) : Instr → List Byte
  | .hsReq => [Config.cmdHsReq]
  | .appName ch text => p.cmdAppName :: ch :: text
  | .volume ch value => [p.cmdVolume, ch, value]
  | .icon ch pixels => p.cmdIcon :: ch :: pixels
  | .nop | .rxByte _ | .rxRearm | .icoStart _ | .icoAddByte _ _ | .icoIsReady _ | .icoSetPh _ _ => []
  | .icoDraw _ _ _ | .icoRdPix _ _ | .fadSample _ _ | .encTick _ _ _ _ | .encGetDelta _ | .encWasPressed _ => []
  | .statRead | .statClear | .reservedF | .hsResp | .faderUpd _ _ | .unrecognised _ | .tick _ | .rxFrame _ => []
  | .icoStream _ _ => []

/-- The values `now` takes at points of an unwrapped time: `now` never goes backwards except by wrapping (R44). -/
def clock (t : Nat) : Time := BitVec.ofNat 32 t

/-! ## States that cannot be told apart -/

/-- Two parser records that differ only where nothing reads them: while idle, `rx_cmd`, `rx_idx`, `rx_ch`, `rx_buf`
(U3, U4); in a frame, the buffer bytes the frame has not written yet. -/
def ParserRec.alike (p : Params) (a b : ParserRec) : Prop :=
  a.active = b.active ∧
  (a.active = true → a.cmd = b.cmd ∧ a.idx = b.idx ∧ (a.idx ≠ 0 → a.ch = b.ch) ∧
    (a.cmd = p.cmdAppName → ∀ k : Fin 64, k.val + 1 < a.idx.toNat → a.buf[k] = b.buf[k]))

/-- Two icon records that differ at most in a holding register nothing reads (U2). -/
def IcoRec.alike (a b : IcoRec) : Prop :=
  a.ready = b.ready ∧ a.placeholder = b.placeholder ∧ a.cursor = b.cursor ∧ a.phase = b.phase ∧
  (a.phase = .awaitingLow → a.hi = b.hi)

/-- Two fader records that differ at most where the valid bits say nothing is held (U4). -/
def FadRec.alike (a b : FadRec) : Prop :=
  a.valid = b.valid ∧ (a.valid = true → a.filt = b.filt) ∧ a.sentValid = b.sentValid ∧
  (a.sentValid = true → a.sent = b.sent) ∧ a.t = b.t

/-- Two states that differ only in values the spec leaves open and calls unobservable (U2 to U4). All a driver, a
host or a renderer can see is the same in both. -/
structure State.alike (s t : State) : Prop where
  params : s.params = t.params
  enc : s.enc = t.enc
  fad : ∀ c : Byte, (s.fadAt c).alike (t.fadAt c)
  ico : ∀ c : Byte, (s.icoAt c).alike (t.icoAt c)
  rx : s.rx.alike s.params t.rx
  status : s.status = t.status
  mem : s.mem = t.mem
  tx : s.tx = t.tx
  ev : s.ev = t.ev
  res : s.res = t.res
  ports : s.ports = t.ports
  trace : s.trace = t.trace
  drawn : s.drawn = t.drawn

end Sys2Proof.Machine
end

