-- ==== Sys2Proof/Certificates/Slice0/Obligations.lean ====
section
/-! DEFINITION. The statements for the provers. Each docstring names the rule or section it formalises. "The block's
state" never takes in `res`, which is an output (R49), nor `drawn`, the model's count of free draws (log entry 3). -/

open Sys2Proof Sys2Proof.Machine

/-! ## Status and housekeeping -/

/-- R250 and R253. NOP reads and writes no state; the reserved code sets ERR_BAD_OP, bit 3, and changes no other
state; both return 0, whatever the unused bits of the word are. -/
def Obligations.NopAndReservedCode : Prop :=
  (∀ ch arg, decodeWord (mkWord 0x0 ch arg) = .nop ∧ decodeWord (mkWord 0xF ch arg) = .reservedF) ∧
  ∀ s : State, exec .nop s = .next { s with res := 0 } ∧
    exec .reservedF s = .next { s with status := s.status ||| 0b1000, res := 0 }

/-- R251 and R252. STAT.READ returns `rx_active` in bit 8, the sticky bits in bits 3:0, 0 elsewhere, and writes no
state; STAT.CLEAR clears the four sticky bits and nothing else. -/
def Obligations.StatReadAndStatClear : Prop :=
  (∀ ch arg, decodeWord (mkWord 0xD ch arg) = .statRead ∧ decodeWord (mkWord 0xE ch arg) = .statClear) ∧
  (∀ s : State, ∃ w : Word, exec .statRead s = .next { s with res := w } ∧
    w.getLsbD 8 = s.rx.active ∧ (∀ k, k < 4 → w.getLsbD k = s.status.getLsbD k) ∧
    (∀ k, 4 ≤ k → k ≠ 8 → w.getLsbD k = false)) ∧
  ∀ s : State, exec .statClear s = .next { s with status := 0, res := 0 }

/-- R255. Every operation with a channel operand, given `ch >= NCH`, sets ERR_CH_RANGE, bit 1, changes nothing else
and returns 0. -/
def Obligations.ChannelOutOfRangeIsRejected : Prop :=
  ∀ (s : State) (i : Instr) (ch : Byte), i.channelOperand = some ch → s.params.nch ≤ ch.toNat →
    exec i s = .next { s with status := s.status ||| 0b0010, res := 0 }

/-! ## IconAssembler -/

/-- R170. The cursor, both flags and the phase are reset; pixels and `ico_hi` stay; everything else stays. -/
def Obligations.IcoStartRearmsTheAssembler : Prop :=
  (∀ ch arg, decodeWord (mkWord 0x3 ch arg) = .icoStart ch) ∧
  ∀ (s : State) (ch : Byte), exec (.icoStart ch) s = .next
    (if ch.toNat < s.params.nch then
      (s.setIco ch ⟨false, false, 0, .awaitingHigh, (s.icoAt ch).hi⟩).ret 0
    else { s with status := s.status ||| 0b0010, res := 0 })

/-- R171. Awaiting the high byte, the byte is stored as pending and no pixel is written; awaiting the low byte, the
pixel is written at a cursor within bounds, which advances, and ready is set when it reaches 4096; else only the phase
changes. -/
def Obligations.IcoAddByteAssemblesPairs : Prop :=
  (∀ ch (junk : BitVec 12) b, decodeWord (mkWord 0x4 ch (junk ++ b)) = .icoAddByte ch b) ∧
  (∀ (s : State) (ch b : Byte), s.params.nch ≤ ch.toNat →
    exec (.icoAddByte ch b) s = .next { s with status := s.status ||| 0b0010, res := 0 }) ∧
  ∀ (s : State) (ch b : Byte), ch.toNat < s.params.nch →
    ((s.icoAt ch).phase = .awaitingHigh → exec (.icoAddByte ch b) s = .next
      ((s.setIco ch { s.icoAt ch with hi := b, phase := .awaitingLow }).ret 0)) ∧
    ((s.icoAt ch).phase = .awaitingLow → 4096 ≤ (s.icoAt ch).cursor.toNat → exec (.icoAddByte ch b) s = .next
      ((s.setIco ch { s.icoAt ch with phase := .awaitingHigh }).ret 0)) ∧
    ((s.icoAt ch).phase = .awaitingLow → (s.icoAt ch).cursor.toNat < 4096 → ∃ t, exec (.icoAddByte ch b) s = .next t ∧
      Memory.pixelAt t.mem ch (s.icoAt ch).cursor.toNat = some ((s.icoAt ch).hi ++ b) ∧
      (t.icoAt ch).cursor.toNat = (s.icoAt ch).cursor.toNat + 1 ∧
      ((t.icoAt ch).ready = true ↔ (s.icoAt ch).ready = true ∨ (s.icoAt ch).cursor.toNat + 1 = 4096) ∧
      (t.icoAt ch).phase = .awaitingHigh ∧ (t.icoAt ch).placeholder = (s.icoAt ch).placeholder ∧
      (t.icoAt ch).hi = (s.icoAt ch).hi ∧
      t = { s with mem := t.mem, ico := s.ico.set ch.toNat (t.icoAt ch) ch.isLt, res := 0 })

/-- R174. The completion flag or the placeholder flag, as 0 or 1; no state is written. -/
def Obligations.IcoIsReadyReturnsReadyOrPlaceholder : Prop :=
  (∀ ch arg, decodeWord (mkWord 0x5 ch arg) = .icoIsReady ch) ∧
  ∀ (s : State) (ch : Byte), exec (.icoIsReady ch) s = .next
    (if ch.toNat < s.params.nch then
      { s with res := if (s.icoAt ch).ready = true ∨ (s.icoAt ch).placeholder = true then 1 else 0 }
    else { s with status := s.status ||| 0b0010, res := 0 })

/-- R175, the operation: the placeholder flag takes the operand, nothing else of the assembler changes. -/
def Obligations.IcoSetPhWritesPlaceholder : Prop :=
  (∀ ch (junk : BitVec 19) v, decodeWord (mkWord 0x6 ch (junk ++ BitVec.ofBool v)) = .icoSetPh ch v) ∧
  ∀ (s : State) (ch : Byte) (v : Bool), exec (.icoSetPh ch v) s = .next
    (if ch.toNat < s.params.nch then (s.setIco ch { s.icoAt ch with placeholder := v }).ret 0
    else { s with status := s.status ||| 0b0010, res := 0 })

/-- R177. The event is appended exactly when what `isReady()` reports is 1. -/
def Obligations.IcoDrawEmitsOnlyWhenReady : Prop :=
  (∀ ch x y, decodeWord (mkWord 0x7 ch (y ++ x)) = .icoDraw ch x y) ∧
  ∀ (s : State) (ch : Byte) (x y : BitVec 10), exec (.icoDraw ch x y) s = .next
    (if ch.toNat < s.params.nch then
      if (s.icoAt ch).ready = true ∨ (s.icoAt ch).placeholder = true then
        { s with ev := s.ev ++ [.drawBitmap ch x y], res := 0 }
      else { s with res := 0 }
    else { s with status := s.status ||| 0b0010, res := 0 })

/-- 41_icon.md section 5 (R178) and 93 U1. A written pixel is returned and no state changes; for a pixel never
written some value is returned, which one is not said, and only the model's count of draws moves (log entry 3). -/
def Obligations.IcoRdPixReturnsThePixel : Prop :=
  (∀ ch (junk : BitVec 8) i, decodeWord (mkWord 0x8 ch (junk ++ i)) = .icoRdPix ch i) ∧
  ∀ (s : State) (ch : Byte) (i : BitVec 12),
    (s.params.nch ≤ ch.toNat →
      exec (.icoRdPix ch i) s = .next { s with status := s.status ||| 0b0010, res := 0 }) ∧
    (∀ v : Pixel, ch.toNat < s.params.nch → Memory.pixelAt s.mem ch i.toNat = some v →
      exec (.icoRdPix ch i) s = .next { s with res := v.zeroExtend 32 }) ∧
    (ch.toNat < s.params.nch → Memory.pixelAt s.mem ch i.toNat = none →
      ∃ v : Pixel, exec (.icoRdPix ch i) s = .next { s with res := v.zeroExtend 32, drawn := s.drawn + 1 })

/-- R172. After ICO.START and any bytes b_0 … b_{L-1}: the cursor, the pixels written and those left, ready, phase. -/
def Obligations.IconCompletionLaw : Prop :=
  ∀ (s : State) (c : Byte) (bytes : List Byte), c.toNat < s.params.nch →
    ∃ t, runOps (.icoStart c :: bytes.map (.icoAddByte c)) s = .next t ∧
      (t.icoAt c).cursor.toNat = min (bytes.length / 2) 4096 ∧
      (∀ i, i < min (bytes.length / 2) 4096 →
        Memory.pixelAt t.mem c i = some (bytes.getD (2 * i) 0 ++ bytes.getD (2 * i + 1) 0)) ∧
      (∀ i, i < 4096 → min (bytes.length / 2) 4096 ≤ i → Memory.pixelAt t.mem c i = Memory.pixelAt s.mem c i) ∧
      ((t.icoAt c).ready = true ↔ 8192 ≤ bytes.length) ∧
      ((t.icoAt c).phase = .awaitingLow ↔ bytes.length % 2 = 1)

/-- 41_icon.md section 2 (R173). With the cursor at 4096 any further bytes leave the memory, the cursor, ready and
the placeholder as they are; only the phase and the holding register of that channel may move. Two clauses are the
model's: that ICO.STREAM is one step (log entry 11), and that with no byte at all the result port keeps its value (log
entry 7). -/
def Obligations.BytesAfterCompletionAreIgnored : Prop :=
  ∀ (s : State) (c : Byte) (bytes : List Byte), c.toNat < s.params.nch → (s.icoAt c).cursor.toNat = 4096 →
    ∃ phase hi, exec (.icoStream c bytes) s = .next
      ((s.setIco c { s.icoAt c with phase := phase, hi := hi }).ret (if bytes = [] then s.res else 0))

/-- 41_icon.md section 2, R9, R60, R68. Every byte of the pixel memory outside the two bytes of the pixel an operation
of the driver stores reads as before; the model's own layout of a pixel's two bytes is log entry 4. -/
def Obligations.MemoryFrameOfDriverOperations : Prop :=
  ∀ (s t : State) (i : Instr), s.params.wf → i.isLocal = true → exec i s = .next t →
    (s.storeOf i = none → ∀ a, Memory.byteAt t.mem a = Memory.byteAt s.mem a) ∧
    (∀ c k, s.storeOf i = some (c, k) → ∀ a, a ≠ pixelAddr c k → a ≠ pixelAddr c k + 1 →
      Memory.byteAt t.mem a = Memory.byteAt s.mem a)

/-! ## FaderSampler -/

/-- R200 to R204. Out of range; skipped within 20 units; else the timestamp, the filter, the quantiser and the gate,
in mathematical integers. -/
def Obligations.FadSampleFiltersQuantisesAndGates : Prop :=
  (∀ ch (junk : BitVec 10) raw, decodeWord (mkWord 0x9 ch (junk ++ raw)) = .fadSample ch raw) ∧
  ∀ (s : State) (ch : Byte) (raw : BitVec 10) (f q : Nat),
    f = (if (s.fadAt ch).valid = true then ((s.fadAt ch).filt.toNat * 3 + raw.toNat) / 4 else raw.toNat) →
    q = f * 255 / 1023 →
    exec (.fadSample ch raw) s = .next
      (if s.params.nch ≤ ch.toNat then { s with status := s.status ||| 0b0010, res := 0 }
      else if (s.ports.now - (s.fadAt ch).t).toNat < 20 then { s with res := 0 }
      else if (s.fadAt ch).sentValid = false ∨ s.params.deadband < ((q : Int) - (s.fadAt ch).sent.toNat).natAbs then
        { s with
          fad := s.fad.set ch.toNat ⟨true, BitVec.ofNat 10 f, true, BitVec.ofNat 8 q, s.ports.now⟩ ch.isLt
          tx := s.tx ++ [0x10, ch, BitVec.ofNat 8 q]
          res := 0 }
      else
        { s with
          fad := s.fad.set ch.toNat
            ⟨true, BitVec.ofNat 10 f, (s.fadAt ch).sentValid, (s.fadAt ch).sent, s.ports.now⟩ ch.isLt
          res := 0 })

/-- R202, the law and the corner cases: the new value lies between the old one and the reading; it stalls exactly
for a reading 0 to 3 above. -/
def Obligations.FilterStaysBetweenAndStalls : Prop :=
  ∀ (s t : State) (ch : Byte) (raw : BitVec 10), ch.toNat < s.params.nch → (s.fadAt ch).valid = true →
    20 ≤ (s.ports.now - (s.fadAt ch).t).toNat → exec (.fadSample ch raw) s = .next t →
    min (s.fadAt ch).filt.toNat raw.toNat ≤ (t.fadAt ch).filt.toNat ∧
    (t.fadAt ch).filt.toNat ≤ max (s.fadAt ch).filt.toNat raw.toNat ∧
    ((t.fadAt ch).filt = (s.fadAt ch).filt ↔
      (s.fadAt ch).filt.toNat ≤ raw.toNat ∧ raw.toNat ≤ (s.fadAt ch).filt.toNat + 3)

/-- 42_fader.md section 2 (R205), for samples of the channel issued one after another with no other operation between
them. A channel that has never sampled nor sent, given the same reading at every sample from the first one taken: the
filter holds that reading and exactly one message, with its quantised value, has been sent. -/
def Obligations.FaderIdleSilence : Prop :=
  ∀ (s : State) (c : Byte) (raw : BitVec 10) (first : Time) (later : List Time), c.toNat < s.params.nch →
    (s.fadAt c).valid = false → (s.fadAt c).sentValid = false → 20 ≤ (first - (s.fadAt c).t).toNat →
    ∃ t, runAt ((first :: later).map (fun now => (now, .fadSample c raw))) s = .next t ∧
      (t.fadAt c).valid = true ∧ (t.fadAt c).filt = raw ∧
      t.tx = s.tx ++ [0x10, c, BitVec.ofNat 8 (raw.toNat * 255 / 1023)]

/-- 42_fader.md section 2 (R206). A constant reading at or below the filter is reached exactly, within as many taken
samples as the filter lies above it; from a filter at least 3 below, the filter stops 3 below the reading, within as
many samples as it has to climb; both hold for every longer run, so the value stays. -/
def Obligations.FilterConvergence : Prop :=
  ∀ (s : State) (c : Byte) (raw : BitVec 10) (times : List Time), c.toNat < s.params.nch →
    (s.fadAt c).valid = true → samplesDue (s.fadAt c).t times →
    ∃ t, runAt (times.map (fun now => (now, .fadSample c raw))) s = .next t ∧
      (raw.toNat ≤ (s.fadAt c).filt.toNat → (s.fadAt c).filt.toNat - raw.toNat ≤ times.length →
        (t.fadAt c).filt = raw) ∧
      ((s.fadAt c).filt.toNat + 3 ≤ raw.toNat → raw.toNat - 3 - (s.fadAt c).filt.toNat ≤ times.length →
        (t.fadAt c).filt.toNat + 3 = raw.toNat)

/-- R207. Every operation keeps the quantised value of every channel within DEADBAND of the last value sent, once the
channel has a value. -/
def Obligations.HostLagsByAtMostDeadband : Prop :=
  ∀ (s t : State) (i : Instr), (∀ c : Byte, s.lagBounded c) → exec i s = .next t → ∀ c : Byte, t.lagBounded c

/-! ## EncoderDecoder -/

/-- R220 to R223. The step of the table, the debounce, and nothing else. -/
def Obligations.EncTickDecodesAndDebounces : Prop :=
  (∀ ch (junk : BitVec 17) clk dt sw,
    decodeWord (mkWord 0xA ch (junk ++ BitVec.ofBool sw ++ BitVec.ofBool dt ++ BitVec.ofBool clk)) =
      .encTick ch clk dt sw) ∧
  ∀ (s : State) (ch : Byte) (clk dt sw : Bool) (timer : Time) (accepted : Bool),
    timer = (if sw = (s.encAt ch).btnRawPrev then (s.encAt ch).btnT else s.ports.now) →
    (accepted = true ↔ 50 < (s.ports.now - timer).toNat ∧ sw ≠ (s.encAt ch).btnState) →
    exec (.encTick ch clk dt sw) s = .next
      (if ch.toNat < s.params.nch then
        { s with
          enc := s.enc.set ch.toNat
            { pos := (s.encAt ch).pos + BitVec.ofInt 32 (rotDelta (s.encAt ch).clkPrev clk dt)
              last := (s.encAt ch).last
              clkPrev := clk
              btnState := if accepted = true then sw else (s.encAt ch).btnState
              btnRawPrev := sw
              btnT := timer
              btnPressed := if accepted = true ∧ sw = s.params.pressedLevel then true else (s.encAt ch).btnPressed } ch.isLt
          res := 0 }
      else { s with status := s.status ||| 0b0010, res := 0 })

/-- R224. The difference of position and baseline is returned, the baseline becomes the position, and a second
immediate call returns 0. -/
def Obligations.GetDeltaIsOneShot : Prop :=
  (∀ ch arg, decodeWord (mkWord 0xB ch arg) = .encGetDelta ch) ∧
  (∀ (s : State) (ch : Byte), exec (.encGetDelta ch) s = .next
    (if ch.toNat < s.params.nch then
      { s with
        enc := s.enc.set ch.toNat { s.encAt ch with last := (s.encAt ch).pos } ch.isLt
        res := (s.encAt ch).pos - (s.encAt ch).last }
    else { s with status := s.status ||| 0b0010, res := 0 })) ∧
  ∀ (s t : State) (ch : Byte), exec (.encGetDelta ch) s = .next t → exec (.encGetDelta ch) t = .next { t with res := 0 }

/-- 43_encoder.md section 2 (R224). Between two ENC.GETDELTA the second returns the net number of counted steps,
increments minus decrements, read as two's complement when it lies in range. -/
def Obligations.GetDeltaReturnsNetSteps : Prop :=
  ∀ (s : State) (c : Byte) (t0 t1 : Time) (ticks : List (Time × Bool × Bool × Bool)) (net : Int),
    c.toNat < s.params.nch → net = netSteps (s.encAt c).clkPrev (ticks.map (fun x => (x.2.1, x.2.2.1))) →
    ∃ t, runAt ((t0, .encGetDelta c) :: ticks.map (fun x => (x.1, .encTick c x.2.1 x.2.2.1 x.2.2.2)) ++
        [(t1, .encGetDelta c)]) s = .next t ∧
      t.res = BitVec.ofInt 32 net ∧ (-2 ^ 31 ≤ net → net < 2 ^ 31 → t.res.toInt = net)

/-- R225. The latch is returned and cleared, the debounced level is neither read nor changed, and a second immediate
call returns 0. -/
def Obligations.WasPressedIsOneShot : Prop :=
  (∀ ch arg, decodeWord (mkWord 0xC ch arg) = .encWasPressed ch) ∧
  (∀ (s : State) (ch : Byte), exec (.encWasPressed ch) s = .next
    (if ch.toNat < s.params.nch then
      { s with
        enc := s.enc.set ch.toNat { s.encAt ch with btnPressed := false } ch.isLt
        res := if (s.encAt ch).btnPressed = true then 1 else 0 }
    else { s with status := s.status ||| 0b0010, res := 0 })) ∧
  ∀ (s t : State) (ch : Byte), exec (.encWasPressed ch) s = .next t →
    ∃ u, exec (.encWasPressed ch) t = .next u ∧ u.res = 0

/-- 43_encoder.md section 4 (R226 (a)). A run of ticks at a level other than the debounced one, the tick before it at
the debounced level, all within 50 units of its first: no tick of it changes the debounced level or the latch. -/
def Obligations.ShortLevelChangeIsAbsorbed : Prop :=
  ∀ (s : State) (c : Byte) (t0 : Nat) (ticks : List (Nat × Bool × Bool)), c.toNat < s.params.nch →
    (s.encAt c).btnRawPrev = (s.encAt c).btnState → (∀ x ∈ ticks, t0 ≤ x.1 ∧ x.1 ≤ t0 + 50) →
    ∀ clk dt, ∃ t,
      runAt (((t0, clk, dt) :: ticks).map
        (fun x => (clock x.1, .encTick c x.2.1 x.2.2 (!(s.encAt c).btnState)))) s = .next t ∧
      (t.encAt c).btnState = (s.encAt c).btnState ∧ (t.encAt c).btnPressed = (s.encAt c).btnPressed

/-- 43_encoder.md section 4 (R226 (b)). A hold of the pressed level that starts at `t0` from the released level: no
tick up to `t0 + 50` sets anything, the first tick after that sets the level and the latch, and after ENC.WASPRESSED
has reported it no later tick of the hold sets the latch again. -/
def Obligations.LongPressSetsLatchOnce : Prop :=
  ∀ (s : State) (c : Byte) (t0 t1 tr : Nat) (ticks later : List (Nat × Bool × Bool)) (clk dt clk' dt' : Bool),
    c.toNat < s.params.nch → (s.encAt c).btnRawPrev = (!s.params.pressedLevel) →
    (s.encAt c).btnState = (!s.params.pressedLevel) → (∀ x ∈ ticks, t0 ≤ x.1 ∧ x.1 ≤ t0 + 50) →
    t0 + 50 < t1 → t1 < t0 + 2 ^ 32 →
    ∃ u v w x,
      runAt (((t0, clk, dt) :: ticks).map (fun x => (clock x.1, .encTick c x.2.1 x.2.2 s.params.pressedLevel))) s =
        .next u ∧
      (u.encAt c).btnState = (!s.params.pressedLevel) ∧ (u.encAt c).btnPressed = (s.encAt c).btnPressed ∧
      runAt [(clock t1, .encTick c clk' dt' s.params.pressedLevel)] u = .next v ∧
      (v.encAt c).btnState = s.params.pressedLevel ∧ (v.encAt c).btnPressed = true ∧
      runAt [(clock tr, .encWasPressed c)] v = .next w ∧ w.res = 1 ∧
      runAt (later.map (fun x => (clock x.1, .encTick c x.2.1 x.2.2 s.params.pressedLevel))) w = .next x ∧
      (x.encAt c).btnState = s.params.pressedLevel ∧ (x.encAt c).btnPressed = false

/-! ## WireCodec -/

/-- R131, R136, R141. A byte that finds the parser idle: the handshake request is answered or flagged, a framed
command opens its frame, any other byte is dropped and flagged. -/
def Obligations.RxByteIdleDispatches : Prop :=
  (∀ ch (junk : BitVec 12) b, decodeWord (mkWord 0x1 ch (junk ++ b)) = .rxByte b) ∧
  ∀ (s : State) (b : Byte), s.rx.active = false → exec (.rxByte b) s = .next
    (if b = 0x01 then
      if s.ports.uuidValid = true then { s with tx := s.tx ++ announcement s.params s.ports.uuid, res := 0 }
      else { s with status := s.status ||| 0b0100, res := 0 }
    else if b = s.params.cmdAppName ∨ b = s.params.cmdVolume ∨ b = s.params.cmdIcon then
      { s with rx := { s.rx with active := true, cmd := b, idx := 0 }, res := 0 }
    else { s with status := s.status ||| 0b0001, res := 0 })

/-- 40_wire.md section 1 (R132, R145), the channel byte of a frame. It is kept, an index out of range is flagged, an
ICON frame re-arms the assembler of its channel, and the frame goes on. -/
def Obligations.RxByteChannelField : Prop :=
  ∀ (s : State) (b : Byte), s.params.wf → s.rx.ok s.params → s.rx.active = true → s.rx.idx = 0 →
    exec (.rxByte b) s = .next
      (if s.params.nch ≤ b.toNat then
        { s with rx := { s.rx with ch := b, idx := 1 }, status := s.status ||| 0b0010, res := 0 }
      else if s.rx.cmd = s.params.cmdIcon then
        { s with
          rx := { s.rx with ch := b, idx := 1 }
          ico := s.ico.set b.toNat ⟨false, false, 0, .awaitingHigh, (s.icoAt b).hi⟩ b.isLt
          res := 0 }
      else { s with rx := { s.rx with ch := b, idx := 1 }, res := 0 })

/-- 40_wire.md section 1 (R132 to R134), the bytes of a short frame after its channel. A text byte goes into the
buffer; the 64th ends the frame and, if the channel exists, delivers the event with all 64 bytes. The volume byte ends
its frame and, if the channel exists, delivers the value clamped to 100. -/
def Obligations.RxByteShortFrameFields : Prop :=
  (∀ (s : State) (b : Byte) (k : Fin 64), s.params.wf → s.rx.active = true → s.rx.cmd = s.params.cmdAppName →
    s.rx.idx.toNat = k.val + 1 → exec (.rxByte b) s = .next
      (if k.val < 63 then { s with rx := { s.rx with buf := s.rx.buf.set k b, idx := s.rx.idx + 1 }, res := 0 }
      else
        { s with
          rx := { s.rx with buf := s.rx.buf.set k b, idx := 65, active := false }
          ev := if s.rx.ch.toNat < s.params.nch then s.ev ++ [.appName s.rx.ch (s.rx.buf.set k b).toList] else s.ev
          res := 0 })) ∧
  ∀ (s : State) (b : Byte), s.params.wf → s.rx.active = true → s.rx.cmd = s.params.cmdVolume → s.rx.idx = 1 →
    exec (.rxByte b) s = .next
      { s with
        rx := { s.rx with buf := s.rx.buf.set 0 b, idx := 2, active := false }
        ev := if s.rx.ch.toNat < s.params.nch then
            s.ev ++ [.volume s.rx.ch (BitVec.ofNat 8 (min b.toNat 100))] else s.ev
        res := 0 }

/-- 40_wire.md section 1 (R132, R133), a pixel byte of an ICON frame: what ICO.ADDBYTE does for that channel, or
nothing where the channel does not exist, and the byte is counted; the 8192nd ends the frame. -/
def Obligations.RxBytePixelField : Prop :=
  ∀ (s : State) (b : Byte), s.params.wf → s.rx.active = true → s.rx.cmd = s.params.cmdIcon →
    1 ≤ s.rx.idx.toNat → s.rx.idx.toNat ≤ 8192 →
    ∃ u, (if s.rx.ch.toNat < s.params.nch then exec (.icoAddByte s.rx.ch b) s = .next u else u = { s with res := 0 }) ∧
      exec (.rxByte b) s = .next
        { u with rx := { s.rx with idx := s.rx.idx + 1, active := decide (s.rx.idx.toNat ≠ 8192) } }

/-- R142. The parser is idle again and nothing else changes. -/
def Obligations.RxRearmAbandonsTheFrame : Prop :=
  (∀ ch arg, decodeWord (mkWord 0x2 ch arg) = .rxRearm) ∧
  ∀ s : State, exec .rxRearm s = .next { s with rx := { s.rx with active := false }, res := 0 }

/-- 40_wire.md section 2 (R135, R136). HS_REQ with the parser idle sends the announcement every time, or flags
ERR_NO_ID; with a frame in progress its byte is payload and nothing is sent. -/
def Obligations.HandshakeRequestIsAnswered : Prop :=
  (∀ s : State, s.rx.active = false → exec .hsReq s = .next
    (if s.ports.uuidValid = true then { s with tx := s.tx ++ announcement s.params s.ports.uuid, res := 0 }
    else { s with status := s.status ||| 0b0100, res := 0 })) ∧
  ∀ s : State, s.rx.active = true → ∃ t, exec .hsReq s = .next t ∧ exec (.rxByte 0x01) s = .next t ∧ t.tx = s.tx

/-- 30_encoding.md section 2 (R94) and 40_wire.md section 2 (R136). The announcement as an operation (log entry 10):
29 bytes, appended whole, or ERR_NO_ID. -/
def Obligations.HandshakeResponseMessage : Prop :=
  (∀ (p : Params) (uuid : BitVec 128), (announcement p uuid).length = 29 ∧
    ∀ k, k < 16 → (announcement p uuid)[11 + k]? = some (uuid.extractLsb' (8 * k) 8)) ∧
  ∀ s : State, exec .hsResp s = .next
    (if s.ports.uuidValid = true then { s with tx := s.tx ++ announcement s.params s.ports.uuid, res := 0 }
    else { s with status := s.status ||| 0b0100, res := 0 })

/-- 30_encoding.md section 2 (R95) and 40_wire.md section 2 (R140). The fader update as an operation: `10 cc qq`. The
channel check is the model's (log entry 10). -/
def Obligations.FaderUpdateMessage : Prop :=
  ∀ (s : State) (ch position : Byte), exec (.faderUpd ch position) s = .next
    (if ch.toNat < s.params.nch then { s with tx := s.tx ++ [0x10, ch, position], res := 0 }
    else { s with status := s.status ||| 0b0010, res := 0 })

/-- 40_wire.md section 2 (R137, R145). A whole APP_NAME frame from idle: the event with all 64 bytes if the channel
exists, else ERR_CH_RANGE and no event; the parser is idle again and nothing else is touched. -/
def Obligations.AppNameFrameDeliversText : Prop :=
  ∀ (s : State) (ch : Byte) (text : List Byte), s.params.wf → s.rx.active = false → (h : text.length = 64) →
    exec (.appName ch text) s = .next
      { s with
        rx := ⟨false, s.params.cmdAppName, 65, ch, ⟨text.toArray, by simpa using h⟩⟩
        ev := if ch.toNat < s.params.nch then s.ev ++ [.appName ch text] else s.ev
        status := if ch.toNat < s.params.nch then s.status else s.status ||| 0b0010
        res := 0 }

/-- R138. A whole VOLUME frame from idle: the event with the value clamped to 100 if the channel exists, else no event
(and ERR_CH_RANGE, R145). -/
def Obligations.VolumeFrameDeliversClampedValue : Prop :=
  ∀ (s : State) (ch value : Byte), s.params.wf → s.rx.active = false →
    exec (.volume ch value) s = .next
      { s with
        rx := ⟨false, s.params.cmdVolume, 2, ch, s.rx.buf.set 0 value⟩
        ev := if ch.toNat < s.params.nch then
            s.ev ++ [.volume ch (BitVec.ofNat 8 (min value.toNat 100))] else s.ev
        status := if ch.toNat < s.params.nch then s.status else s.status ||| 0b0010
        res := 0 }

/-- R139, with R145. A whole ICON frame from idle, for a channel that exists, writes every pixel, sets ready, clears
the placeholder, returns the parser to idle, appends no event and touches nothing else; for a channel that does not
exist its 8192 bytes are consumed, ERR_CH_RANGE is set and no assembler and no pixel is touched. -/
def Obligations.IconFrameFillsTheBuffer : Prop :=
  ∀ (s : State) (ch : Byte) (pixels : List Byte), s.params.wf → s.rx.active = false → pixels.length = 8192 →
    (ch.toNat < s.params.nch → ∃ t, exec (.icon ch pixels) s = .next t ∧
      (∀ i, i < 4096 → Memory.pixelAt t.mem ch i = some (pixels.getD (2 * i) 0 ++ pixels.getD (2 * i + 1) 0)) ∧
      (∀ (d : Byte) (i : Nat), d ≠ ch → i < 4096 → Memory.pixelAt t.mem d i = Memory.pixelAt s.mem d i) ∧
      (t.icoAt ch).ready = true ∧ (t.icoAt ch).placeholder = false ∧ (t.icoAt ch).cursor = 4096 ∧
      (t.icoAt ch).phase = .awaitingHigh ∧
      t = { s with
        rx := ⟨false, s.params.cmdIcon, 8193, ch, s.rx.buf⟩
        ico := s.ico.set ch.toNat (t.icoAt ch) ch.isLt
        mem := t.mem
        res := 0 }) ∧
    (s.params.nch ≤ ch.toNat → exec (.icon ch pixels) s = .next
      { s with
        rx := ⟨false, s.params.cmdIcon, 8193, ch, s.rx.buf⟩
        status := s.status ||| 0b0010
        res := 0 })

/-- 40_wire.md section 2 (R141) and 30_encoding.md section 4 (R103). While idle, every byte but the four recognised
command bytes, the outbound codes among them, is consumed: only STATUS changes, by bit 0. With a frame in progress the
byte is payload; that this operation has a meaning there, that of RX.BYTE, is the model's choice (log entry 9). -/
def Obligations.UnrecognisedByteIsDropped : Prop :=
  (∀ (s : State) (b : Byte), s.rx.active = false → ¬ s.params.recognised b →
    exec (.unrecognised b) s = .next { s with status := s.status ||| 0b0001, res := 0 }) ∧
  ∀ (s : State) (b : Byte), s.rx.active = true →
    ∃ t, exec (.unrecognised b) s = .next t ∧ exec (.rxByte b) s = .next t ∧ t.tx = s.tx

/-- 30_encoding.md section 1 (R90) and 40_wire.md section 2. In every state, a wire command is the RX.BYTE of each of
its bytes in order (log entry 9). -/
def Obligations.WireCommandsAreTheirBytes : Prop :=
  ∀ (s : State) (i : Instr), i.isFrame = true → ∃ t, exec i s = .next t ∧
    runOps ((frameBytes s.params i).map .rxByte) s = .next t

/-- 30_encoding.md section 4 (R103). While a frame is in progress a byte is payload whatever its value: nothing is
sent, no condition but the channel range is flagged, and the command stays. -/
def Obligations.PayloadIsNotExaminedForCommands : Prop :=
  ∀ (s t : State) (b : Byte), s.rx.active = true → exec (.rxByte b) s = .next t →
    t.tx = s.tx ∧ t.rx.cmd = s.rx.cmd ∧ (t.status = s.status ∨ t.status = s.status ||| 0b0010)

/-- 70_reset_and_hazards.md section 3 (R297) and R92. A stream that is a concatenation of whole frames, started with
the parser idle, leaves it idle, delivers exactly the events of its frames in order, and sends one announcement for
each handshake request. -/
def Obligations.WholeFramesKeepFraming : Prop :=
  ∀ (s : State) (frames : List Instr), s.params.wf → s.rx.active = false → s.ports.uuidValid = true →
    (∀ i ∈ frames, i.isFrame = true ∧ i.wf s.params = true) →
    ∃ t, exec (.rxFrame (frames.flatMap (frameBytes s.params))) s = .next t ∧ t.rx.active = false ∧
      t.ev = s.ev ++ frames.flatMap (frameEvents s.params) ∧
      t.tx = s.tx ++ (frames.filter (· = .hsReq)).flatMap (fun _ => announcement s.params s.ports.uuid)

/-- 60_exceptions.md section 5 (R267). No inbound byte changes an encoder or a fader, and none changes a parameter
or a port, the device identifier among them. -/
def Obligations.HostCannotReachEncodersOrFaders : Prop :=
  ∀ (s t : State) (i : Instr), i.feedsParser = true → exec i s = .next t →
    t.enc = s.enc ∧ t.fad = s.fad ∧ t.params = s.params ∧ t.ports = s.ports

/-! ## Pseudo-operations -/

/-- R110, R254. TICK is FAD.SAMPLE for every channel ascending and then ENC.TICK for every channel ascending;
RX.FRAME is RX.BYTE for each byte; ICO.STREAM is ICO.ADDBYTE for each byte. -/
def Obligations.PseudoOperationsAreTheirMembers : Prop :=
  (∀ (s : State) (inputs : List TickInput), ∃ t, exec (.tick inputs) s = .next t ∧
    runOps (inputs.mapIdx (fun c x => .fadSample (BitVec.ofNat 8 c) x.raw) ++
      inputs.mapIdx (fun c x => .encTick (BitVec.ofNat 8 c) x.clk x.dt x.sw)) s = .next t) ∧
  (∀ (s : State) (bytes : List Byte), ∃ t, exec (.rxFrame bytes) s = .next t ∧
    runOps (bytes.map .rxByte) s = .next t) ∧
  ∀ (s : State) (ch : Byte) (bytes : List Byte), ∃ t, exec (.icoStream ch bytes) s = .next t ∧
    runOps (bytes.map (.icoAddByte ch)) s = .next t

/-- 44_system.md R254 and 40_wire.md R144. The messages of one TICK come out in ascending channel order, at most one
for each channel. -/
def Obligations.TickMessagesAscend : Prop :=
  ∀ (s t : State) (inputs : List TickInput), s.params.wf → (Instr.tick inputs).wf s.params = true →
    exec (.tick inputs) s = .next t →
    ∃ msgs : List (Byte × Byte), msgs.Pairwise (fun a b => a.1.toNat < b.1.toNat) ∧
      (∀ m ∈ msgs, m.1.toNat < s.params.nch) ∧ t.tx = s.tx ++ msgs.flatMap (fun m => [0x10, m.1, m.2])

/-! ## Decoding, encoding and stepping -/

/-- 30_encoding.md sections 5 and 2: words written out from the spec's own encodings decode to what they stand for. -/
def Obligations.SpecWordsDecode : Prop :=
  decodeTableWord 32 0x0FFFFFFF = some .nop ∧
  decodeTableWord 32 0x1000004B = some (.rxByte 0x4B) ∧
  decodeTableWord 32 0x70001008 = some (.icoDraw 0 8 4) ∧
  decodeTableWord 32 0x80200102 = some (.icoRdPix 2 258) ∧
  decodeTableWord 32 0x903003FF = some (.fadSample 3 1023) ∧
  decodeTableWord 32 0xA0100005 = some (.encTick 1 true false true) ∧
  decodeTableWord 8 0x01 = some .hsReq ∧
  decodeTableWord 8 0x21 = some (.volume 0 0)

/-- 30_encoding.md: every well-formed operation is read back from its encoding, and a pseudo-operation's encoding
reads back as its members. -/
def Obligations.DecodeReadsBackEveryEncoding : Prop :=
  ∀ (p : Params) (i : Instr), p.wf → i.wf p = true → (encode p i).map (decode p) = i.expand.map .ok

/-- 30_encoding.md section 5 (R104 to R106, R108). The encoding of what a word decodes to is that word with the bits
its operation does not use put to 0: every used bit is kept where it stood, and the others have no effect. -/
def Obligations.EncodeKeepsExactlyTheUsedBits : Prop :=
  ∀ (p : Params) (w : Word), encodeOne p (decodeWord w) = some (.word (w &&&
    match (opCode w).toNat with
    | 0x1 => 0xF00000FF
    | 0x3 | 0x5 | 0xB | 0xC => 0xFFF00000
    | 0x4 => 0xFFF000FF
    | 0x6 => 0xFFF00001
    | 0x7 => 0xFFFFFFFF
    | 0x8 => 0xFFF00FFF
    | 0x9 => 0xFFF003FF
    | 0xA => 0xFFF00007
    | _ => 0xF0000000))

/-- 30_encoding.md section 5 and section 4: every operation word, and every burst of at least one byte, decodes to a
well-formed operation. Which bursts become RX.FRAME is log entry 9. -/
def Obligations.EveryWordAndByteDecodes : Prop :=
  (∀ (p : Params) (w : Word), ∃ i, decode p (.word w) = .ok i ∧ i.wf p = true) ∧
  ∀ (p : Params) (b : Byte) (bytes : List Byte), ∃ i, decode p (.burst (b :: bytes)) = .ok i ∧ i.wf p = true

/-- 10_state.md R44, 20_memory.md R72, 30_encoding.md R109. A step takes the next trace line, samples its port levels
and is exec of the operation its request decodes to; with nothing asked nothing changes (the trace and the idle step
are the model's, log entry 2). The last clause is the model's choice and no rule's: a request that stands for no
operation, an empty burst or a malformed outbound message, is refused (log entries 9, 10). -/
def Obligations.StepRunsTheDecodedOperation : Prop :=
  (∀ (s : State) (x : Stimulus) (rest : List Stimulus) (i : Instr), s.trace = x :: rest →
    decode s.params x.req = .ok i → step s = exec i
      { s with
        ports := ⟨x.now.getD s.ports.now, x.uuid.getD s.ports.uuid, x.uuidValid.getD s.ports.uuidValid⟩
        trace := rest }) ∧
  (∀ s : State, s.trace = [] → step s = .next s) ∧
  ∀ (s : State) (x : Stimulus) (rest : List Stimulus) (why : DecodeError), s.trace = x :: rest →
    decode s.params x.req = .error why → step s = .refused (.undecodable why)

/-- 00_scope.md R16, 20_memory.md R72, 30_encoding.md R110. Issuing the encoding of any well-formed operation, request
after request, has exactly the operation's effect. -/
def Obligations.IssuingAnEncodingRunsTheOperation : Prop :=
  ∀ (s : State) (i : Instr) (rest : List Stimulus), s.params.wf → i.wf s.params = true →
    Host.Core.run Sys2Proof.core (encode s.params i).length
      { s with trace := (encode s.params i).map Stimulus.ofRequest ++ rest } = exec i { s with trace := rest }

/-! ## The whole machine -/

/-- R15, R260. No operation blocks, faults or is refused: each has a next state on every state and operand value, and
parameters, ports and the trace are not written. -/
def Obligations.EveryOperationCompletes : Prop :=
  ∀ (i : Instr) (s : State), ∃ t, exec i s = .next t ∧
    t.params = s.params ∧ t.ports = s.ports ∧ t.trace = s.trace

/-- 10_state.md section 7 (R53), with R68 and the canonical form of the pixel memory (log entry 4) and the absent records
(log entry 12): every step keeps the invariant. -/
def Obligations.EveryStepKeepsInv : Prop :=
  ∀ s t : State, s.Inv → step s = .next t → t.Inv

/-- 10_state.md section 7 (R53) and 42_fader.md R207 at reset, for every admissible value of the parameters: both
invariants hold there. -/
def Obligations.ResetHasInv : Prop :=
  ∀ p : Params, p.wf → (State.resetWith p).Inv ∧ ∀ c : Byte, (State.resetWith p).lagBounded c

/-- 10_state.md section 7 (R52), the values the spec gives. That `State.reset` is this state at the defaults of R6 is
the model's choice (log entry 1): R6 gives NCH no default, and the model takes 4, as the test vectors do. -/
def Obligations.ResetValues : Prop :=
  (∀ (p : Params) (c : Byte),
    (State.resetWith p).encAt c = ⟨0, 0, true, !p.pressedLevel, !p.pressedLevel, 0, false⟩ ∧
    (State.resetWith p).fadAt c = ⟨false, 0, false, 0, 0⟩ ∧
    ((State.resetWith p).icoAt c).ready = false ∧ ((State.resetWith p).icoAt c).placeholder = false ∧
    ((State.resetWith p).icoAt c).cursor = 0 ∧ ((State.resetWith p).icoAt c).phase = .awaitingHigh ∧
    (∀ i, Memory.pixelAt (State.resetWith p).mem c i = none)) ∧
  (∀ p : Params, (State.resetWith p).rx.active = false ∧ (State.resetWith p).rx.cmd = 0 ∧
    (State.resetWith p).rx.idx = 0 ∧ (State.resetWith p).rx.ch = 0 ∧ (State.resetWith p).status = 0 ∧
    (State.resetWith p).tx = [] ∧ (State.resetWith p).ev = []) ∧
  State.reset = State.resetWith Params.default

/-- 93_implementation_defined.md U2 to U4, R39, R42. States that differ only in what the spec leaves without a value
and calls unobservable stay so after any step, so nothing a driver, a host or a renderer sees ever differs. -/
def Obligations.UnspecifiedValuesAreNeverObserved : Prop :=
  ∀ s t s' : State, s.params.wf → s.rx.ok s.params → s.alike t → step s = .next s' →
    ∃ t', step t = .next t' ∧ s'.alike t'

/-- R20. An operation on channel `c` neither reads nor writes the records of another channel, and leaves that
channel's pixels alone. -/
def Obligations.ChannelsAreIsolated : Prop :=
  ∀ (s : State) (i : Instr) (c d : Byte) (e : EncRec) (f : FadRec) (g : IcoRec), i.channelOperand = some c → d ≠ c →
    exec i (s.replaceChannel d e f g) = mapNext (fun t => t.replaceChannel d e f g) (exec i s) ∧
    ∀ t, exec i s = .next t → t.encAt d = s.encAt d ∧ t.fadAt d = s.fadAt d ∧ t.icoAt d = s.icoAt d ∧
      ∀ k, k < 4096 → Memory.pixelAt t.mem d k = Memory.pixelAt s.mem d k

/-- 10_state.md section 7 (R50) and section 6 (R46), 60_exceptions.md R261 and R266. The columns "set by" and "cleared
by" of the flags of a channel and of the four sticky bits of STATUS, which STAT.CLEAR alone clears. The
pseudo-operations and the inbound wire commands stand for the operations they are made of (log entries 9, 11); that
HS_RESP can set bit 2 and FADER_UPD bit 1 on their own is the model's choice (log entry 10). -/
def Obligations.FlagsChangeOnlyAsTabulated : Prop :=
  ∀ (s t : State) (i : Instr) (c : Byte), exec i s = .next t →
    ((s.encAt c).btnPressed = true → (t.encAt c).btnPressed = false → i = .encWasPressed c) ∧
    ((s.encAt c).btnPressed = false → (t.encAt c).btnPressed = true →
      (∃ clk dt sw, i = .encTick c clk dt sw) ∨ ∃ inputs, i = .tick inputs) ∧
    ((s.icoAt c).ready = true → (t.icoAt c).ready = false → i = .icoStart c ∨ i.feedsParser = true) ∧
    ((s.icoAt c).ready = false → (t.icoAt c).ready = true →
      (∃ b, i = .icoAddByte c b) ∨ (∃ bytes, i = .icoStream c bytes) ∨ i.feedsParser = true) ∧
    ((s.icoAt c).placeholder = true → (t.icoAt c).placeholder = false →
      i = .icoSetPh c false ∨ i = .icoStart c ∨ i.feedsParser = true) ∧
    ((s.icoAt c).placeholder = false → (t.icoAt c).placeholder = true → i = .icoSetPh c true) ∧
    ((s.fadAt c).valid = true → (t.fadAt c).valid = true) ∧
    ((s.fadAt c).sentValid = true → (t.fadAt c).sentValid = true) ∧
    ((s.fadAt c).valid = false ∧ (t.fadAt c).valid = true ∨
        (s.fadAt c).sentValid = false ∧ (t.fadAt c).sentValid = true →
      (∃ raw, i = .fadSample c raw) ∨ ∃ inputs, i = .tick inputs) ∧
    (∀ k, s.status.getLsbD k = true → t.status.getLsbD k = false → i = .statClear) ∧
    (s.status.getLsbD 0 = false → t.status.getLsbD 0 = true → i.feedsParser = true) ∧
    (s.status.getLsbD 1 = false → t.status.getLsbD 1 = true →
      i.channelOperand.isSome = true ∨ i.feedsParser = true ∨ (∃ inputs, i = .tick inputs) ∨
        (∃ ch bytes, i = .icoStream ch bytes) ∨ ∃ ch position, i = .faderUpd ch position) ∧
    (s.status.getLsbD 2 = false → t.status.getLsbD 2 = true → i.feedsParser = true ∨ i = .hsResp) ∧
    (s.status.getLsbD 3 = false → t.status.getLsbD 3 = true → i = .reservedF)

/-- R264. An operation of the driver meets at most one recorded condition. -/
def Obligations.AtMostOneConditionPerOperation : Prop :=
  ∀ (s t : State) (i : Instr), i.isLocal = true → i ≠ .statClear → exec i s = .next t →
    t.status = s.status ∨ ∃ k : Cond, t.status = s.status ||| BitVec.ofNat 4 (2 ^ k.code)

/-- 10_state.md R47, 20_memory.md R68, 40_wire.md R144. Every operation appends whole messages to `tx`, of 3 or 29
bytes, and takes nothing back. -/
def Obligations.TxGrowsByWholeMessages : Prop :=
  ∀ (s t : State) (i : Instr), exec i s = .next t → ∃ msgs : List (List Byte), t.tx = s.tx ++ msgs.flatten ∧
    ∀ m ∈ msgs, m = announcement s.params s.ports.uuid ∧ m.length = 29 ∨
      ∃ c q : Byte, m = [0x10, c, q] ∧ c.toNat < s.params.nch

/-- 10_state.md R48. Every operation appends events to `ev` and takes none back; each is for a channel that exists,
with a text of 64 bytes or a value of at most 100. -/
def Obligations.EvGrowsByWellFormedEvents : Prop :=
  ∀ (s t : State) (i : Instr), exec i s = .next t → ∃ es : List Event, t.ev = s.ev ++ es ∧
    ∀ e ∈ es, match e with
      | .appName ch text => ch.toNat < s.params.nch ∧ text.length = 64
      | .volume ch value => ch.toNat < s.params.nch ∧ value.toNat ≤ 100
      | .drawBitmap ch _ _ => ch.toNat < s.params.nch

/-- 20_memory.md R70. ICO.START, ICO.SETPH, STAT.CLEAR and RX.REARM issued twice do what they do once; ICO.ISREADY,
STAT.READ and ICO.RDPIX of a written pixel, on a channel that exists, change nothing but the result. -/
def Obligations.IdempotentOperations : Prop :=
  (∀ (s t : State) (i : Instr), exec i s = .next t →
    ((∃ ch, i = .icoStart ch) ∨ (∃ ch v, i = .icoSetPh ch v) ∨ i = .statClear ∨ i = .rxRearm) → exec i t = .next t) ∧
  ∀ (s t : State) (i : Instr), exec i s = .next t →
    (i = .statRead ∨ (∃ ch, i = .icoIsReady ch ∧ ch.toNat < s.params.nch) ∨
      ∃ ch k, i = .icoRdPix ch k ∧ ch.toNat < s.params.nch ∧ (Memory.pixelAt s.mem ch k.toNat).isSome) →
    t = { s with res := t.res } ∧ exec i t = .next t
end

