-- ==== Sys2Proof/Laws/Decode.lean ====
section
/-! SUPPORT. What the fields of an operation word hold when the encoder has put them there, and the payload lengths. -/

namespace Sys2Proof

/-! ## Fields of `mkWord` -/

/-- Every bit of an operation word stands where R104 puts it. -/
theorem getLsbD_mkWord (code : BitVec 4) (ch : Byte) (arg : BitVec 20) (j : Nat) :
    (mkWord code ch arg).getLsbD j =
      if j < 20 then arg.getLsbD j else if j < 28 then ch.getLsbD (j - 20) else code.getLsbD (j - 28) := by
  show (BitVec.append (BitVec.append code ch) arg).getLsbD j = _
  simp only [BitVec.append_eq, BitVec.getLsbD_append]
  split
  · rfl
  · have : j - 20 < 8 ↔ j < 28 := by omega
    simp [this, Nat.sub_sub]

@[simp] theorem opCode_mkWord (code : BitVec 4) (ch : Byte) (arg : BitVec 20) : opCode (mkWord code ch arg) = code := by
  apply BitVec.eq_of_getLsbD_eq
  intro i hi
  have h1 : ¬ (28 + i < 20) := by omega
  simp [opCode, getLsbD_mkWord, h1, hi]

@[simp] theorem opCh_mkWord (code : BitVec 4) (ch : Byte) (arg : BitVec 20) : opCh (mkWord code ch arg) = ch := by
  apply BitVec.eq_of_getLsbD_eq
  intro i hi
  have h1 : 20 + i < 28 := by omega
  simp [opCh, getLsbD_mkWord, h1, hi]

@[simp] theorem opArg_mkWord (code : BitVec 4) (ch : Byte) (arg : BitVec 20) : opArg (mkWord code ch arg) = arg := by
  apply BitVec.eq_of_getLsbD_eq
  intro i hi
  simp [opArg, getLsbD_mkWord, hi]

/-! ## Operands inside `arg` -/

/-- The low field of an append is its right part. -/
theorem extractLsb'_append_low {n m : Nat} (x : BitVec n) (y : BitVec m) : (x ++ y).extractLsb' 0 m = y := by
  apply BitVec.eq_of_getLsbD_eq
  intro i hi
  simp [BitVec.getLsbD_append, hi]

/-- The high field of an append is its left part. -/
theorem extractLsb'_append_high {n m : Nat} (x : BitVec n) (y : BitVec m) : (x ++ y).extractLsb' m n = x := by
  apply BitVec.eq_of_getLsbD_eq
  intro i hi
  simp [BitVec.getLsbD_append, hi]

@[simp] theorem argB_append (junk : BitVec 12) (b : Byte) : argB (junk ++ b) = b := extractLsb'_append_low _ _

@[simp] theorem argLow10_append (y x : BitVec 10) : argLow10 (y ++ x) = x := extractLsb'_append_low _ _

@[simp] theorem argHigh10_append (y x : BitVec 10) : argHigh10 (y ++ x) = y := extractLsb'_append_high _ _

@[simp] theorem argI_append (junk : BitVec 8) (i : BitVec 12) : argI (junk ++ i) = i := extractLsb'_append_low _ _

/-- A one-bit operand at the right end of an append. -/
theorem getLsbD_append_ofBool {n : Nat} (x : BitVec n) (v : Bool) (k : Nat) :
    (x ++ BitVec.ofBool v).getLsbD k = if k = 0 then v else x.getLsbD (k - 1) := by
  rw [BitVec.getLsbD_append]
  cases k <;> simp

@[simp] theorem argBit_setPh (junk : BitVec 19) (v : Bool) : argBit (junk ++ BitVec.ofBool v) 0 = v :=
  getLsbD_append_ofBool junk v 0

@[simp] theorem argBit_tick_clk (junk : BitVec 17) (clk dt sw : Bool) :
    argBit (junk ++ BitVec.ofBool sw ++ BitVec.ofBool dt ++ BitVec.ofBool clk) 0 = clk :=
  getLsbD_append_ofBool _ clk 0

@[simp] theorem argBit_tick_dt (junk : BitVec 17) (clk dt sw : Bool) :
    argBit (junk ++ BitVec.ofBool sw ++ BitVec.ofBool dt ++ BitVec.ofBool clk) 1 = dt :=
  (getLsbD_append_ofBool _ clk 1).trans (getLsbD_append_ofBool _ dt 0)

@[simp] theorem argBit_tick_sw (junk : BitVec 17) (clk dt sw : Bool) :
    argBit (junk ++ BitVec.ofBool sw ++ BitVec.ofBool dt ++ BitVec.ofBool clk) 2 = sw :=
  (getLsbD_append_ofBool _ clk 2).trans ((getLsbD_append_ofBool _ dt 1).trans (getLsbD_append_ofBool _ sw 0))

/-! ## Command bytes and payload lengths (R92) -/

/-- The four inbound command bytes are pairwise distinct (R6). -/
theorem Params.commands_ne {p : Params} (h : p.wf) :
    Config.cmdHsReq ≠ p.cmdAppName ∧ Config.cmdHsReq ≠ p.cmdVolume ∧ Config.cmdHsReq ≠ p.cmdIcon ∧
      p.cmdAppName ≠ p.cmdVolume ∧ p.cmdAppName ≠ p.cmdIcon ∧ p.cmdVolume ≠ p.cmdIcon := by
  have := h.2.2.2
  simp only [List.nodup_cons, List.mem_cons, List.not_mem_nil, not_or, or_false] at this
  tauto

/-- The handshake response and the fader update have different command bytes (R6). -/
theorem Params.outbound_ne {p : Params} (h : p.wf) : Config.cmdFaderUpd ≠ p.cmdHsResp := by
  intro e
  have := h.2.2.1
  rw [← e] at this
  exact absurd this (by decide)

@[simp] theorem inboundPlen_appName (p : Params) : inboundPlen p p.cmdAppName = 65 := by simp [inboundPlen, Config.nameLen]

theorem inboundPlen_volume {p : Params} (h : p.wf) : inboundPlen p p.cmdVolume = 2 := by
  simp [inboundPlen, (Params.commands_ne h).2.2.2.1.symm]

theorem inboundPlen_icon {p : Params} (h : p.wf) : inboundPlen p p.cmdIcon = 8193 := by
  simp [inboundPlen, (Params.commands_ne h).2.2.2.2.1.symm, (Params.commands_ne h).2.2.2.2.2.symm, Config.iconBytes]

theorem inboundPlen_hsReq {p : Params} (h : p.wf) : inboundPlen p Config.cmdHsReq = 0 := by
  obtain ⟨h1, h2, h3, -⟩ := Params.commands_ne h
  simp [inboundPlen, h1, h2, h3]

/-- Every inbound frame with a payload has at least two payload bytes, so the channel byte never ends it (R143). -/
theorem two_le_inboundPlen {p : Params} {cmd : Byte} (h : p.framed cmd) : 2 ≤ inboundPlen p cmd := by
  unfold inboundPlen
  split
  · simp [Config.nameLen]
  · split
    · exact Nat.le_refl _
    · split
      · simp [Config.iconBytes]
      · rename_i h1 h2 h3; rcases h with h | h | h <;> contradiction

/-- No payload is longer than an icon's (R92). -/
theorem inboundPlen_le (p : Params) (cmd : Byte) : inboundPlen p cmd ≤ 8193 := by
  unfold inboundPlen
  split
  · simp [Config.nameLen]
  · split
    · omega
    · split <;> simp [Config.iconBytes]

end Sys2Proof
end

