-- ==== Sys2Proof/Laws/State.lean ====
section
/-! SUPPORT. What each update of the state leaves in each field, one simp lemma per field per update, and what the
record accessors read after each update. -/

namespace Sys2Proof.Machine

variable (s : State)

/-! ## setEnc -/

@[simp] theorem State.setEnc_params (c : Byte) (r : EncRec) : (s.setEnc c r).params = s.params := rfl
@[simp] theorem State.setEnc_enc (c : Byte) (r : EncRec) : (s.setEnc c r).enc = s.enc.set c.toNat r c.isLt := rfl
@[simp] theorem State.setEnc_fad (c : Byte) (r : EncRec) : (s.setEnc c r).fad = s.fad := rfl
@[simp] theorem State.setEnc_ico (c : Byte) (r : EncRec) : (s.setEnc c r).ico = s.ico := rfl
@[simp] theorem State.setEnc_rx (c : Byte) (r : EncRec) : (s.setEnc c r).rx = s.rx := rfl
@[simp] theorem State.setEnc_status (c : Byte) (r : EncRec) : (s.setEnc c r).status = s.status := rfl
@[simp] theorem State.setEnc_mem (c : Byte) (r : EncRec) : (s.setEnc c r).mem = s.mem := rfl
@[simp] theorem State.setEnc_tx (c : Byte) (r : EncRec) : (s.setEnc c r).tx = s.tx := rfl
@[simp] theorem State.setEnc_ev (c : Byte) (r : EncRec) : (s.setEnc c r).ev = s.ev := rfl
@[simp] theorem State.setEnc_res (c : Byte) (r : EncRec) : (s.setEnc c r).res = s.res := rfl
@[simp] theorem State.setEnc_ports (c : Byte) (r : EncRec) : (s.setEnc c r).ports = s.ports := rfl
@[simp] theorem State.setEnc_trace (c : Byte) (r : EncRec) : (s.setEnc c r).trace = s.trace := rfl
@[simp] theorem State.setEnc_drawn (c : Byte) (r : EncRec) : (s.setEnc c r).drawn = s.drawn := rfl
@[simp] theorem State.fadAt_setEnc (c : Byte) (r : EncRec) (d : Byte) : (s.setEnc c r).fadAt d = s.fadAt d := rfl
@[simp] theorem State.icoAt_setEnc (c : Byte) (r : EncRec) (d : Byte) : (s.setEnc c r).icoAt d = s.icoAt d := rfl

/-! ## setFad -/

@[simp] theorem State.setFad_params (c : Byte) (r : FadRec) : (s.setFad c r).params = s.params := rfl
@[simp] theorem State.setFad_enc (c : Byte) (r : FadRec) : (s.setFad c r).enc = s.enc := rfl
@[simp] theorem State.setFad_fad (c : Byte) (r : FadRec) : (s.setFad c r).fad = s.fad.set c.toNat r c.isLt := rfl
@[simp] theorem State.setFad_ico (c : Byte) (r : FadRec) : (s.setFad c r).ico = s.ico := rfl
@[simp] theorem State.setFad_rx (c : Byte) (r : FadRec) : (s.setFad c r).rx = s.rx := rfl
@[simp] theorem State.setFad_status (c : Byte) (r : FadRec) : (s.setFad c r).status = s.status := rfl
@[simp] theorem State.setFad_mem (c : Byte) (r : FadRec) : (s.setFad c r).mem = s.mem := rfl
@[simp] theorem State.setFad_tx (c : Byte) (r : FadRec) : (s.setFad c r).tx = s.tx := rfl
@[simp] theorem State.setFad_ev (c : Byte) (r : FadRec) : (s.setFad c r).ev = s.ev := rfl
@[simp] theorem State.setFad_res (c : Byte) (r : FadRec) : (s.setFad c r).res = s.res := rfl
@[simp] theorem State.setFad_ports (c : Byte) (r : FadRec) : (s.setFad c r).ports = s.ports := rfl
@[simp] theorem State.setFad_trace (c : Byte) (r : FadRec) : (s.setFad c r).trace = s.trace := rfl
@[simp] theorem State.setFad_drawn (c : Byte) (r : FadRec) : (s.setFad c r).drawn = s.drawn := rfl
@[simp] theorem State.encAt_setFad (c : Byte) (r : FadRec) (d : Byte) : (s.setFad c r).encAt d = s.encAt d := rfl
@[simp] theorem State.icoAt_setFad (c : Byte) (r : FadRec) (d : Byte) : (s.setFad c r).icoAt d = s.icoAt d := rfl

/-! ## setIco -/

@[simp] theorem State.setIco_params (c : Byte) (r : IcoRec) : (s.setIco c r).params = s.params := rfl
@[simp] theorem State.setIco_enc (c : Byte) (r : IcoRec) : (s.setIco c r).enc = s.enc := rfl
@[simp] theorem State.setIco_fad (c : Byte) (r : IcoRec) : (s.setIco c r).fad = s.fad := rfl
@[simp] theorem State.setIco_ico (c : Byte) (r : IcoRec) : (s.setIco c r).ico = s.ico.set c.toNat r c.isLt := rfl
@[simp] theorem State.setIco_rx (c : Byte) (r : IcoRec) : (s.setIco c r).rx = s.rx := rfl
@[simp] theorem State.setIco_status (c : Byte) (r : IcoRec) : (s.setIco c r).status = s.status := rfl
@[simp] theorem State.setIco_mem (c : Byte) (r : IcoRec) : (s.setIco c r).mem = s.mem := rfl
@[simp] theorem State.setIco_tx (c : Byte) (r : IcoRec) : (s.setIco c r).tx = s.tx := rfl
@[simp] theorem State.setIco_ev (c : Byte) (r : IcoRec) : (s.setIco c r).ev = s.ev := rfl
@[simp] theorem State.setIco_res (c : Byte) (r : IcoRec) : (s.setIco c r).res = s.res := rfl
@[simp] theorem State.setIco_ports (c : Byte) (r : IcoRec) : (s.setIco c r).ports = s.ports := rfl
@[simp] theorem State.setIco_trace (c : Byte) (r : IcoRec) : (s.setIco c r).trace = s.trace := rfl
@[simp] theorem State.setIco_drawn (c : Byte) (r : IcoRec) : (s.setIco c r).drawn = s.drawn := rfl
@[simp] theorem State.encAt_setIco (c : Byte) (r : IcoRec) (d : Byte) : (s.setIco c r).encAt d = s.encAt d := rfl
@[simp] theorem State.fadAt_setIco (c : Byte) (r : IcoRec) (d : Byte) : (s.setIco c r).fadAt d = s.fadAt d := rfl

/-! ## setRx -/

@[simp] theorem State.setRx_params (r : ParserRec) : (s.setRx r).params = s.params := rfl
@[simp] theorem State.setRx_enc (r : ParserRec) : (s.setRx r).enc = s.enc := rfl
@[simp] theorem State.setRx_fad (r : ParserRec) : (s.setRx r).fad = s.fad := rfl
@[simp] theorem State.setRx_ico (r : ParserRec) : (s.setRx r).ico = s.ico := rfl
@[simp] theorem State.setRx_rx (r : ParserRec) : (s.setRx r).rx = r := rfl
@[simp] theorem State.setRx_status (r : ParserRec) : (s.setRx r).status = s.status := rfl
@[simp] theorem State.setRx_mem (r : ParserRec) : (s.setRx r).mem = s.mem := rfl
@[simp] theorem State.setRx_tx (r : ParserRec) : (s.setRx r).tx = s.tx := rfl
@[simp] theorem State.setRx_ev (r : ParserRec) : (s.setRx r).ev = s.ev := rfl
@[simp] theorem State.setRx_res (r : ParserRec) : (s.setRx r).res = s.res := rfl
@[simp] theorem State.setRx_ports (r : ParserRec) : (s.setRx r).ports = s.ports := rfl
@[simp] theorem State.setRx_trace (r : ParserRec) : (s.setRx r).trace = s.trace := rfl
@[simp] theorem State.setRx_drawn (r : ParserRec) : (s.setRx r).drawn = s.drawn := rfl
@[simp] theorem State.encAt_setRx (r : ParserRec) (d : Byte) : (s.setRx r).encAt d = s.encAt d := rfl
@[simp] theorem State.fadAt_setRx (r : ParserRec) (d : Byte) : (s.setRx r).fadAt d = s.fadAt d := rfl
@[simp] theorem State.icoAt_setRx (r : ParserRec) (d : Byte) : (s.setRx r).icoAt d = s.icoAt d := rfl

/-! ## ret -/

@[simp] theorem State.ret_params (v : Word) : (s.ret v).params = s.params := rfl
@[simp] theorem State.ret_enc (v : Word) : (s.ret v).enc = s.enc := rfl
@[simp] theorem State.ret_fad (v : Word) : (s.ret v).fad = s.fad := rfl
@[simp] theorem State.ret_ico (v : Word) : (s.ret v).ico = s.ico := rfl
@[simp] theorem State.ret_rx (v : Word) : (s.ret v).rx = s.rx := rfl
@[simp] theorem State.ret_status (v : Word) : (s.ret v).status = s.status := rfl
@[simp] theorem State.ret_mem (v : Word) : (s.ret v).mem = s.mem := rfl
@[simp] theorem State.ret_tx (v : Word) : (s.ret v).tx = s.tx := rfl
@[simp] theorem State.ret_ev (v : Word) : (s.ret v).ev = s.ev := rfl
@[simp] theorem State.ret_res (v : Word) : (s.ret v).res = v := rfl
@[simp] theorem State.ret_ports (v : Word) : (s.ret v).ports = s.ports := rfl
@[simp] theorem State.ret_trace (v : Word) : (s.ret v).trace = s.trace := rfl
@[simp] theorem State.ret_drawn (v : Word) : (s.ret v).drawn = s.drawn := rfl
@[simp] theorem State.encAt_ret (v : Word) (d : Byte) : (s.ret v).encAt d = s.encAt d := rfl
@[simp] theorem State.fadAt_ret (v : Word) (d : Byte) : (s.ret v).fadAt d = s.fadAt d := rfl
@[simp] theorem State.icoAt_ret (v : Word) (d : Byte) : (s.ret v).icoAt d = s.icoAt d := rfl

/-! ## sendMessage -/

@[simp] theorem State.sendMessage_params (m : List Byte) : (s.sendMessage m).params = s.params := rfl
@[simp] theorem State.sendMessage_enc (m : List Byte) : (s.sendMessage m).enc = s.enc := rfl
@[simp] theorem State.sendMessage_fad (m : List Byte) : (s.sendMessage m).fad = s.fad := rfl
@[simp] theorem State.sendMessage_ico (m : List Byte) : (s.sendMessage m).ico = s.ico := rfl
@[simp] theorem State.sendMessage_rx (m : List Byte) : (s.sendMessage m).rx = s.rx := rfl
@[simp] theorem State.sendMessage_status (m : List Byte) : (s.sendMessage m).status = s.status := rfl
@[simp] theorem State.sendMessage_mem (m : List Byte) : (s.sendMessage m).mem = s.mem := rfl
@[simp] theorem State.sendMessage_tx (m : List Byte) : (s.sendMessage m).tx = s.tx ++ m := rfl
@[simp] theorem State.sendMessage_ev (m : List Byte) : (s.sendMessage m).ev = s.ev := rfl
@[simp] theorem State.sendMessage_res (m : List Byte) : (s.sendMessage m).res = s.res := rfl
@[simp] theorem State.sendMessage_ports (m : List Byte) : (s.sendMessage m).ports = s.ports := rfl
@[simp] theorem State.sendMessage_trace (m : List Byte) : (s.sendMessage m).trace = s.trace := rfl
@[simp] theorem State.sendMessage_drawn (m : List Byte) : (s.sendMessage m).drawn = s.drawn := rfl
@[simp] theorem State.encAt_sendMessage (m : List Byte) (d : Byte) : (s.sendMessage m).encAt d = s.encAt d := rfl
@[simp] theorem State.fadAt_sendMessage (m : List Byte) (d : Byte) : (s.sendMessage m).fadAt d = s.fadAt d := rfl
@[simp] theorem State.icoAt_sendMessage (m : List Byte) (d : Byte) : (s.sendMessage m).icoAt d = s.icoAt d := rfl

/-! ## emit -/

@[simp] theorem State.emit_params (e : Event) : (s.emit e).params = s.params := rfl
@[simp] theorem State.emit_enc (e : Event) : (s.emit e).enc = s.enc := rfl
@[simp] theorem State.emit_fad (e : Event) : (s.emit e).fad = s.fad := rfl
@[simp] theorem State.emit_ico (e : Event) : (s.emit e).ico = s.ico := rfl
@[simp] theorem State.emit_rx (e : Event) : (s.emit e).rx = s.rx := rfl
@[simp] theorem State.emit_status (e : Event) : (s.emit e).status = s.status := rfl
@[simp] theorem State.emit_mem (e : Event) : (s.emit e).mem = s.mem := rfl
@[simp] theorem State.emit_tx (e : Event) : (s.emit e).tx = s.tx := rfl
@[simp] theorem State.emit_ev (e : Event) : (s.emit e).ev = s.ev ++ [e] := rfl
@[simp] theorem State.emit_res (e : Event) : (s.emit e).res = s.res := rfl
@[simp] theorem State.emit_ports (e : Event) : (s.emit e).ports = s.ports := rfl
@[simp] theorem State.emit_trace (e : Event) : (s.emit e).trace = s.trace := rfl
@[simp] theorem State.emit_drawn (e : Event) : (s.emit e).drawn = s.drawn := rfl
@[simp] theorem State.encAt_emit (e : Event) (d : Byte) : (s.emit e).encAt d = s.encAt d := rfl
@[simp] theorem State.fadAt_emit (e : Event) (d : Byte) : (s.emit e).fadAt d = s.fadAt d := rfl
@[simp] theorem State.icoAt_emit (e : Event) (d : Byte) : (s.emit e).icoAt d = s.icoAt d := rfl

/-! ## flag -/

@[simp] theorem State.flag_params (k : Cond) : (s.flag k).params = s.params := rfl
@[simp] theorem State.flag_enc (k : Cond) : (s.flag k).enc = s.enc := rfl
@[simp] theorem State.flag_fad (k : Cond) : (s.flag k).fad = s.fad := rfl
@[simp] theorem State.flag_ico (k : Cond) : (s.flag k).ico = s.ico := rfl
@[simp] theorem State.flag_rx (k : Cond) : (s.flag k).rx = s.rx := rfl
@[simp] theorem State.flag_status (k : Cond) : (s.flag k).status = stickySet k s.status := rfl
@[simp] theorem State.flag_mem (k : Cond) : (s.flag k).mem = s.mem := rfl
@[simp] theorem State.flag_tx (k : Cond) : (s.flag k).tx = s.tx := rfl
@[simp] theorem State.flag_ev (k : Cond) : (s.flag k).ev = s.ev := rfl
@[simp] theorem State.flag_res (k : Cond) : (s.flag k).res = s.res := rfl
@[simp] theorem State.flag_ports (k : Cond) : (s.flag k).ports = s.ports := rfl
@[simp] theorem State.flag_trace (k : Cond) : (s.flag k).trace = s.trace := rfl
@[simp] theorem State.flag_drawn (k : Cond) : (s.flag k).drawn = s.drawn := rfl
@[simp] theorem State.encAt_flag (k : Cond) (d : Byte) : (s.flag k).encAt d = s.encAt d := rfl
@[simp] theorem State.fadAt_flag (k : Cond) (d : Byte) : (s.flag k).fadAt d = s.fadAt d := rfl
@[simp] theorem State.icoAt_flag (k : Cond) (d : Byte) : (s.flag k).icoAt d = s.icoAt d := rfl

/-! ## acknowledge -/

@[simp] theorem State.acknowledge_params : (s.acknowledge).params = s.params := rfl
@[simp] theorem State.acknowledge_enc : (s.acknowledge).enc = s.enc := rfl
@[simp] theorem State.acknowledge_fad : (s.acknowledge).fad = s.fad := rfl
@[simp] theorem State.acknowledge_ico : (s.acknowledge).ico = s.ico := rfl
@[simp] theorem State.acknowledge_rx : (s.acknowledge).rx = s.rx := rfl
@[simp] theorem State.acknowledge_status : (s.acknowledge).status = 0 := rfl
@[simp] theorem State.acknowledge_mem : (s.acknowledge).mem = s.mem := rfl
@[simp] theorem State.acknowledge_tx : (s.acknowledge).tx = s.tx := rfl
@[simp] theorem State.acknowledge_ev : (s.acknowledge).ev = s.ev := rfl
@[simp] theorem State.acknowledge_res : (s.acknowledge).res = s.res := rfl
@[simp] theorem State.acknowledge_ports : (s.acknowledge).ports = s.ports := rfl
@[simp] theorem State.acknowledge_trace : (s.acknowledge).trace = s.trace := rfl
@[simp] theorem State.acknowledge_drawn : (s.acknowledge).drawn = s.drawn := rfl
@[simp] theorem State.encAt_acknowledge (d : Byte) : (s.acknowledge).encAt d = s.encAt d := rfl
@[simp] theorem State.fadAt_acknowledge (d : Byte) : (s.acknowledge).fadAt d = s.fadAt d := rfl
@[simp] theorem State.icoAt_acknowledge (d : Byte) : (s.acknowledge).icoAt d = s.icoAt d := rfl

/-! ## writePixel -/

@[simp] theorem State.writePixel_params (c : Byte) (i : Nat) (h l : Byte) : (s.writePixel c i h l).params = s.params := rfl
@[simp] theorem State.writePixel_enc (c : Byte) (i : Nat) (h l : Byte) : (s.writePixel c i h l).enc = s.enc := rfl
@[simp] theorem State.writePixel_fad (c : Byte) (i : Nat) (h l : Byte) : (s.writePixel c i h l).fad = s.fad := rfl
@[simp] theorem State.writePixel_ico (c : Byte) (i : Nat) (h l : Byte) : (s.writePixel c i h l).ico = s.ico := rfl
@[simp] theorem State.writePixel_rx (c : Byte) (i : Nat) (h l : Byte) : (s.writePixel c i h l).rx = s.rx := rfl
@[simp] theorem State.writePixel_status (c : Byte) (i : Nat) (h l : Byte) : (s.writePixel c i h l).status = s.status := rfl
@[simp] theorem State.writePixel_mem (c : Byte) (i : Nat) (h l : Byte) : (s.writePixel c i h l).mem = Memory.storePixel s.mem c i h l := rfl
@[simp] theorem State.writePixel_tx (c : Byte) (i : Nat) (h l : Byte) : (s.writePixel c i h l).tx = s.tx := rfl
@[simp] theorem State.writePixel_ev (c : Byte) (i : Nat) (h l : Byte) : (s.writePixel c i h l).ev = s.ev := rfl
@[simp] theorem State.writePixel_res (c : Byte) (i : Nat) (h l : Byte) : (s.writePixel c i h l).res = s.res := rfl
@[simp] theorem State.writePixel_ports (c : Byte) (i : Nat) (h l : Byte) : (s.writePixel c i h l).ports = s.ports := rfl
@[simp] theorem State.writePixel_trace (c : Byte) (i : Nat) (h l : Byte) : (s.writePixel c i h l).trace = s.trace := rfl
@[simp] theorem State.writePixel_drawn (c : Byte) (i : Nat) (h l : Byte) : (s.writePixel c i h l).drawn = s.drawn := rfl
@[simp] theorem State.encAt_writePixel (c : Byte) (i : Nat) (h l : Byte) (d : Byte) : (s.writePixel c i h l).encAt d = s.encAt d := rfl
@[simp] theorem State.fadAt_writePixel (c : Byte) (i : Nat) (h l : Byte) (d : Byte) : (s.writePixel c i h l).fadAt d = s.fadAt d := rfl
@[simp] theorem State.icoAt_writePixel (c : Byte) (i : Nat) (h l : Byte) (d : Byte) : (s.writePixel c i h l).icoAt d = s.icoAt d := rfl

/-! ## accept -/

@[simp] theorem State.accept_params (x : Stimulus) (rest : List Stimulus) : (s.accept x rest).params = s.params := rfl
@[simp] theorem State.accept_enc (x : Stimulus) (rest : List Stimulus) : (s.accept x rest).enc = s.enc := rfl
@[simp] theorem State.accept_fad (x : Stimulus) (rest : List Stimulus) : (s.accept x rest).fad = s.fad := rfl
@[simp] theorem State.accept_ico (x : Stimulus) (rest : List Stimulus) : (s.accept x rest).ico = s.ico := rfl
@[simp] theorem State.accept_rx (x : Stimulus) (rest : List Stimulus) : (s.accept x rest).rx = s.rx := rfl
@[simp] theorem State.accept_status (x : Stimulus) (rest : List Stimulus) : (s.accept x rest).status = s.status := rfl
@[simp] theorem State.accept_mem (x : Stimulus) (rest : List Stimulus) : (s.accept x rest).mem = s.mem := rfl
@[simp] theorem State.accept_tx (x : Stimulus) (rest : List Stimulus) : (s.accept x rest).tx = s.tx := rfl
@[simp] theorem State.accept_ev (x : Stimulus) (rest : List Stimulus) : (s.accept x rest).ev = s.ev := rfl
@[simp] theorem State.accept_res (x : Stimulus) (rest : List Stimulus) : (s.accept x rest).res = s.res := rfl
@[simp] theorem State.accept_ports (x : Stimulus) (rest : List Stimulus) : (s.accept x rest).ports = s.ports.drive x := rfl
@[simp] theorem State.accept_trace (x : Stimulus) (rest : List Stimulus) : (s.accept x rest).trace = rest := rfl
@[simp] theorem State.accept_drawn (x : Stimulus) (rest : List Stimulus) : (s.accept x rest).drawn = s.drawn := rfl
@[simp] theorem State.encAt_accept (x : Stimulus) (rest : List Stimulus) (d : Byte) : (s.accept x rest).encAt d = s.encAt d := rfl
@[simp] theorem State.fadAt_accept (x : Stimulus) (rest : List Stimulus) (d : Byte) : (s.accept x rest).fadAt d = s.fadAt d := rfl
@[simp] theorem State.icoAt_accept (x : Stimulus) (rest : List Stimulus) (d : Byte) : (s.accept x rest).icoAt d = s.icoAt d := rfl

/-! ## atTime -/

@[simp] theorem State.atTime_params (now : Time) : (s.atTime now).params = s.params := rfl
@[simp] theorem State.atTime_enc (now : Time) : (s.atTime now).enc = s.enc := rfl
@[simp] theorem State.atTime_fad (now : Time) : (s.atTime now).fad = s.fad := rfl
@[simp] theorem State.atTime_ico (now : Time) : (s.atTime now).ico = s.ico := rfl
@[simp] theorem State.atTime_rx (now : Time) : (s.atTime now).rx = s.rx := rfl
@[simp] theorem State.atTime_status (now : Time) : (s.atTime now).status = s.status := rfl
@[simp] theorem State.atTime_mem (now : Time) : (s.atTime now).mem = s.mem := rfl
@[simp] theorem State.atTime_tx (now : Time) : (s.atTime now).tx = s.tx := rfl
@[simp] theorem State.atTime_ev (now : Time) : (s.atTime now).ev = s.ev := rfl
@[simp] theorem State.atTime_res (now : Time) : (s.atTime now).res = s.res := rfl
@[simp] theorem State.atTime_ports (now : Time) : (s.atTime now).ports = { s.ports with now := now } := rfl
@[simp] theorem State.atTime_trace (now : Time) : (s.atTime now).trace = s.trace := rfl
@[simp] theorem State.atTime_drawn (now : Time) : (s.atTime now).drawn = s.drawn := rfl
@[simp] theorem State.encAt_atTime (now : Time) (d : Byte) : (s.atTime now).encAt d = s.encAt d := rfl
@[simp] theorem State.fadAt_atTime (now : Time) (d : Byte) : (s.atTime now).fadAt d = s.fadAt d := rfl
@[simp] theorem State.icoAt_atTime (now : Time) (d : Byte) : (s.atTime now).icoAt d = s.icoAt d := rfl

/-! ## The records after a write of one -/

@[simp] theorem State.encAt_setEnc_same (c : Byte) (r : EncRec) : (s.setEnc c r).encAt c = r := by
  simp [State.encAt, State.setEnc]

theorem State.encAt_setEnc_ne (c d : Byte) (r : EncRec) (h : d ≠ c) : (s.setEnc c r).encAt d = s.encAt d := by
  have : c.toNat ≠ d.toNat := fun e => h (BitVec.eq_of_toNat_eq e.symm)
  simp [State.encAt, State.setEnc, this]

theorem State.encAt_setEnc (c d : Byte) (r : EncRec) :
    (s.setEnc c r).encAt d = if d = c then r else s.encAt d := by
  split
  · next h => subst h; simp
  · next h => exact State.encAt_setEnc_ne s c d r h

@[simp] theorem State.setEnc_self (c : Byte) : s.setEnc c (s.encAt c) = s := by
  simp [State.setEnc, State.encAt]

@[simp] theorem State.setEnc_setEnc (c : Byte) (r r' : EncRec) : (s.setEnc c r).setEnc c r' = s.setEnc c r' := by
  simp [State.setEnc]

@[simp] theorem State.fadAt_setFad_same (c : Byte) (r : FadRec) : (s.setFad c r).fadAt c = r := by
  simp [State.fadAt, State.setFad]

theorem State.fadAt_setFad_ne (c d : Byte) (r : FadRec) (h : d ≠ c) : (s.setFad c r).fadAt d = s.fadAt d := by
  have : c.toNat ≠ d.toNat := fun e => h (BitVec.eq_of_toNat_eq e.symm)
  simp [State.fadAt, State.setFad, this]

theorem State.fadAt_setFad (c d : Byte) (r : FadRec) :
    (s.setFad c r).fadAt d = if d = c then r else s.fadAt d := by
  split
  · next h => subst h; simp
  · next h => exact State.fadAt_setFad_ne s c d r h

@[simp] theorem State.setFad_self (c : Byte) : s.setFad c (s.fadAt c) = s := by
  simp [State.setFad, State.fadAt]

@[simp] theorem State.setFad_setFad (c : Byte) (r r' : FadRec) : (s.setFad c r).setFad c r' = s.setFad c r' := by
  simp [State.setFad]

@[simp] theorem State.icoAt_setIco_same (c : Byte) (r : IcoRec) : (s.setIco c r).icoAt c = r := by
  simp [State.icoAt, State.setIco]

theorem State.icoAt_setIco_ne (c d : Byte) (r : IcoRec) (h : d ≠ c) : (s.setIco c r).icoAt d = s.icoAt d := by
  have : c.toNat ≠ d.toNat := fun e => h (BitVec.eq_of_toNat_eq e.symm)
  simp [State.icoAt, State.setIco, this]

theorem State.icoAt_setIco (c d : Byte) (r : IcoRec) :
    (s.setIco c r).icoAt d = if d = c then r else s.icoAt d := by
  split
  · next h => subst h; simp
  · next h => exact State.icoAt_setIco_ne s c d r h

@[simp] theorem State.setIco_self (c : Byte) : s.setIco c (s.icoAt c) = s := by
  simp [State.setIco, State.icoAt]

@[simp] theorem State.setIco_setIco (c : Byte) (r r' : IcoRec) : (s.setIco c r).setIco c r' = s.setIco c r' := by
  simp [State.setIco]

/-! ## The result port and the parser record, written twice -/

@[simp] theorem State.ret_ret (v w : Word) : (s.ret v).ret w = s.ret w := rfl

@[simp] theorem State.setRx_setRx (r r' : ParserRec) : (s.setRx r).setRx r' = s.setRx r' := rfl

/-! ## The records of the state after reset -/

@[simp] theorem State.encAt_resetWith (p : Params) (c : Byte) : (State.resetWith p).encAt c = EncRec.reset p := by
  simp [State.encAt, State.resetWith]

@[simp] theorem State.fadAt_resetWith (p : Params) (c : Byte) : (State.resetWith p).fadAt c = FadRec.reset := by
  simp [State.fadAt, State.resetWith]

@[simp] theorem State.icoAt_resetWith (p : Params) (c : Byte) : (State.resetWith p).icoAt c = IcoRec.reset := by
  simp [State.icoAt, State.resetWith]

end Sys2Proof.Machine
end

