-- ==== Sys2Proof/Laws/Memory.lean ====
section
/-! SUPPORT. The laws of the pixel memory: a read after a write, what a write leaves alone, and that every write keeps
the canonical form. -/

namespace Sys2Proof.Machine

/-! ## One byte -/

@[simp] theorem Memory.byteAt_nil (a : Nat) : Memory.byteAt [] a = none := rfl

theorem Memory.byteAt_store (m : Memory) (a : Nat) (v : Byte) (b : Nat) :
    Memory.byteAt (Memory.store m a v) b = if b = a then some v else Memory.byteAt m b := by
  induction m with
  | nil => simp only [Memory.store, Memory.byteAt, eq_comm]
  | cons cell rest ih =>
    obtain ⟨k, w⟩ := cell
    simp only [Memory.store]
    rcases Nat.lt_trichotomy a k with h | h | h
    · simp only [h, if_true, Memory.byteAt, @eq_comm _ a b]
    · subst h
      by_cases hb : b = a
      · simp [Memory.byteAt, hb]
      · simp [Memory.byteAt, hb, Ne.symm hb]
    · have h1 : ¬ a < k := by omega
      have h2 : a ≠ k := by omega
      simp only [h1, h2, if_false, Memory.byteAt, ih]
      by_cases hk : k = b
      · have : b ≠ a := by omega
        simp [hk, this]
      · simp [hk]

@[simp] theorem Memory.byteAt_store_same (m : Memory) (a : Nat) (v : Byte) :
    Memory.byteAt (Memory.store m a v) a = some v := by simp [Memory.byteAt_store]

theorem Memory.byteAt_store_ne (m : Memory) (a b : Nat) (v : Byte) (h : b ≠ a) :
    Memory.byteAt (Memory.store m a v) b = Memory.byteAt m b := by simp [Memory.byteAt_store, h]

/-- A store lists the cell it writes and cells that stood in the memory before. -/
theorem Memory.mem_store (m : Memory) (a : Nat) (v : Byte) (cell : Host.Cell)
    (h : cell ∈ Memory.store m a v) : cell = (a, v) ∨ cell ∈ m := by
  induction m with
  | nil => simpa [Memory.store] using h
  | cons head rest ih =>
    obtain ⟨k, w⟩ := head
    simp only [Memory.store] at h
    split at h
    · simpa using h
    · split at h
      · rcases List.mem_cons.1 h with h | h
        · exact .inl h
        · exact .inr (List.mem_cons_of_mem _ h)
      · rcases List.mem_cons.1 h with h | h
        · exact .inr (h ▸ List.mem_cons_self)
        · exact (ih h).imp id (List.mem_cons_of_mem _)

/-- Every store keeps the canonical form. -/
theorem Memory.store_wf (m : Memory) (a : Nat) (v : Byte) (h : Memory.wf m) : Memory.wf (Memory.store m a v) := by
  induction m with
  | nil => simp [Memory.store, Memory.wf]
  | cons head rest ih =>
    obtain ⟨k, w⟩ := head
    have hh : ∀ c ∈ rest, k < c.1 := (List.pairwise_cons.1 h).1
    have ht : Memory.wf rest := (List.pairwise_cons.1 h).2
    simp only [Memory.store]
    split
    · next ak =>
      refine List.pairwise_cons.2 ⟨fun c hc => ?_, h⟩
      rcases List.mem_cons.1 hc with rfl | hc
      · exact ak
      · exact Nat.lt_trans ak (hh c hc)
    · split
      · next ak => subst ak; exact List.pairwise_cons.2 ⟨hh, ht⟩
      · refine List.pairwise_cons.2 ⟨fun c hc => ?_, ih ht⟩
        rcases Memory.mem_store rest a v c hc with rfl | hc
        · show k < a; omega
        · exact hh c hc

/-! ## One pixel -/

theorem pixelAddr_eq (c : Byte) (i : Nat) : pixelAddr c i = c.toNat * 8192 + 2 * i := rfl

/-- Different pixels are held at different addresses. -/
theorem pixelAddr_inj (c d : Byte) (i j : Nat) (hi : i < Config.npix) (hj : j < Config.npix)
    (h : pixelAddr c i / 2 = pixelAddr d j / 2) : c = d ∧ i = j := by
  simp only [pixelAddr_eq, Config.npix] at *
  exact ⟨BitVec.eq_of_toNat_eq (by omega), by omega⟩

theorem Memory.byteAt_storePixel (m : Memory) (c : Byte) (i : Nat) (h l : Byte) (a : Nat) :
    Memory.byteAt (Memory.storePixel m c i h l) a =
      if a = pixelAddr c i + 1 then some l else if a = pixelAddr c i then some h else Memory.byteAt m a := by
  simp [Memory.storePixel, Memory.byteAt_store]

@[simp] theorem Memory.pixelAt_storePixel_same (m : Memory) (c : Byte) (i : Nat) (h l : Byte) :
    Memory.pixelAt (Memory.storePixel m c i h l) c i = some (pixelOf h l) := by
  simp [Memory.pixelAt, Memory.byteAt_storePixel]

theorem Memory.pixelAt_storePixel_ne (m : Memory) (c d : Byte) (i j : Nat) (h l : Byte)
    (hi : i < Config.npix) (hj : j < Config.npix) (hne : ¬ (d = c ∧ j = i)) :
    Memory.pixelAt (Memory.storePixel m c i h l) d j = Memory.pixelAt m d j := by
  have hd : pixelAddr d j / 2 ≠ pixelAddr c i / 2 := fun e => hne (pixelAddr_inj d c j i hj hi e)
  have h1 : pixelAddr d j ≠ pixelAddr c i := fun e => hd (by rw [e])
  have ec := pixelAddr_eq c i
  have ed := pixelAddr_eq d j
  have h2 : pixelAddr d j ≠ pixelAddr c i + 1 := by clear hi hj; omega
  have h3 : pixelAddr d j + 1 ≠ pixelAddr c i := by clear hi hj; omega
  simp [Memory.pixelAt, Memory.byteAt_storePixel, h1, h2, h3]

/-- A pixel is held when both its bytes are. -/
theorem Memory.pixelAt_isSome (m : Memory) (c : Byte) (i : Nat) :
    (Memory.pixelAt m c i).isSome ↔
      (Memory.byteAt m (pixelAddr c i)).isSome ∧ (Memory.byteAt m (pixelAddr c i + 1)).isSome := by
  unfold Memory.pixelAt
  cases Memory.byteAt m (pixelAddr c i) <;> cases Memory.byteAt m (pixelAddr c i + 1) <;> simp

theorem Memory.storePixel_wf (m : Memory) (c : Byte) (i : Nat) (h l : Byte) (hm : Memory.wf m) :
    Memory.wf (Memory.storePixel m c i h l) :=
  Memory.store_wf _ _ _ (Memory.store_wf _ _ _ hm)

/-- A pixel store lists its two bytes and cells that stood in the memory before. -/
theorem Memory.mem_storePixel (m : Memory) (c : Byte) (i : Nat) (h l : Byte) (cell : Host.Cell)
    (hc : cell ∈ Memory.storePixel m c i h l) :
    cell = (pixelAddr c i + 1, l) ∨ cell = (pixelAddr c i, h) ∨ cell ∈ m :=
  (Memory.mem_store _ _ _ _ hc).imp id (Memory.mem_store _ _ _ _)

/-- The memory of the state after reset has the canonical form. -/
theorem State.resetWith_mem_wf (p : Params) : Memory.wf (State.resetWith p).mem := List.Pairwise.nil

end Sys2Proof.Machine
end

