-- ==== Sys2Proof/Laws/Ops.lean ====
section
/-! SUPPORT. What the shared operations do, said once: the channel check, the recorded conditions, the pixel read. -/

namespace Sys2Proof.Machine

variable (s : State)

/-! ## The channel check (R255) -/

theorem State.withChannel_of_exists (ch : Byte) (body : State → State) (h : channelExists s.params ch) :
    s.withChannel ch body = body s := if_pos h

theorem State.withChannel_of_absent (ch : Byte) (body : State → State) (h : ¬ channelExists s.params ch) :
    s.withChannel ch body = (s.flag .chRange).ret 0 := if_neg h

/-- What holds of the rejection and of the body holds of the operation. -/
theorem State.withChannel_cases (P : State → Prop) (ch : Byte) (body : State → State)
    (absent : ¬ channelExists s.params ch → P ((s.flag .chRange).ret 0))
    (present : channelExists s.params ch → P (body s)) : P (s.withChannel ch body) := by
  by_cases h : channelExists s.params ch
  · rw [s.withChannel_of_exists ch body h]; exact present h
  · rw [s.withChannel_of_absent ch body h]; exact absent h

/-! ## The recorded conditions (R261) -/

theorem stickySet_eq (k : Cond) (bits : BitVec 4) : stickySet k bits = bits ||| BitVec.ofNat 4 (2 ^ k.code) := by
  cases k <;> rfl

@[simp] theorem stickySet_unknownCmd (bits : BitVec 4) : stickySet .unknownCmd bits = bits ||| 0b0001 := rfl

@[simp] theorem stickySet_chRange (bits : BitVec 4) : stickySet .chRange bits = bits ||| 0b0010 := rfl

@[simp] theorem stickySet_noId (bits : BitVec 4) : stickySet .noId bits = bits ||| 0b0100 := rfl

@[simp] theorem stickySet_badOp (bits : BitVec 4) : stickySet .badOp bits = bits ||| 0b1000 := rfl

/-- Recording a condition changes the bit of that condition alone. -/
theorem stickySet_getLsbD_ne (k : Cond) (bits : BitVec 4) (j : Nat) (h : j ≠ k.code) :
    (stickySet k bits).getLsbD j = bits.getLsbD j := by
  simp [stickySet, BitVec.getLsbD_one]; omega

/-- Setting a bit clears none. -/
theorem stickySet_keeps (k : Cond) (bits : BitVec 4) (j : Nat) (h : bits.getLsbD j = true) :
    (stickySet k bits).getLsbD j = true := by simp [stickySet, h]

/-! ## The result port -/

@[simp] theorem flagResult_eq (v : Bool) : flagResult v = if v = true then 1 else 0 := by cases v <;> rfl

/-! ## The pixel read (R178) -/

theorem State.retPixel_written (c : Byte) (i : Nat) (v : Pixel) (h : Memory.pixelAt s.mem c i = some v) :
    s.retPixel c i = s.ret (pixelResult v) := by simp [State.retPixel, h]

theorem State.retPixel_unwritten (c : Byte) (i : Nat) (h : Memory.pixelAt s.mem c i = none) :
    s.retPixel c i = { s with res := pixelResult (Config.freePixel s.drawn), drawn := s.drawn + 1 } := by
  simp [State.retPixel, h]

/-- Reading a pixel changes the result and the count of draws at most. -/
theorem State.retPixel_frame (c : Byte) (i : Nat) :
    ∃ v n, s.retPixel c i = { s with res := v, drawn := n } := by
  unfold State.retPixel
  split
  · exact ⟨_, _, rfl⟩
  · exact ⟨_, _, rfl⟩

end Sys2Proof.Machine
end

