-- ==== Sys2Proof/Laws/Encoder.lean ====
section
/-! SUPPORT. What Rot and Btn leave in each register of the encoder record, and what one ENC.TICK leaves alone. -/

namespace Sys2Proof.Machine

/-! ## Rot and Btn, register by register (R221, R222) -/

@[simp] theorem rot_last (r : EncRec) (clk dt : Bool) : (rot r clk dt).last = r.last := rfl

@[simp] theorem rot_clkPrev (r : EncRec) (clk dt : Bool) : (rot r clk dt).clkPrev = clk := rfl

@[simp] theorem rot_btnState (r : EncRec) (clk dt : Bool) : (rot r clk dt).btnState = r.btnState := rfl

@[simp] theorem rot_btnRawPrev (r : EncRec) (clk dt : Bool) : (rot r clk dt).btnRawPrev = r.btnRawPrev := rfl

@[simp] theorem rot_btnT (r : EncRec) (clk dt : Bool) : (rot r clk dt).btnT = r.btnT := rfl

@[simp] theorem rot_btnPressed (r : EncRec) (clk dt : Bool) : (rot r clk dt).btnPressed = r.btnPressed := rfl

/-- The counter steps as the table of R223 says. -/
theorem rot_pos (r : EncRec) (clk dt : Bool) :
    (rot r clk dt).pos = r.pos + BitVec.ofInt 32 (rotDelta r.clkPrev clk dt) := by
  unfold rot
  cases r.clkPrev <;> cases clk <;> cases dt <;> simp [rotDelta, BitVec.sub_eq_add_neg]

@[simp] theorem btn_pos (pressed : Bool) (now : Time) (r : EncRec) (sw : Bool) : (btn pressed now r sw).pos = r.pos := rfl

@[simp] theorem btn_last (pressed : Bool) (now : Time) (r : EncRec) (sw : Bool) : (btn pressed now r sw).last = r.last := rfl

@[simp] theorem btn_clkPrev (pressed : Bool) (now : Time) (r : EncRec) (sw : Bool) : (btn pressed now r sw).clkPrev = r.clkPrev := rfl

@[simp] theorem btn_btnRawPrev (pressed : Bool) (now : Time) (r : EncRec) (sw : Bool) : (btn pressed now r sw).btnRawPrev = sw := rfl

@[simp] theorem btn_btnT (pressed : Bool) (now : Time) (r : EncRec) (sw : Bool) : (btn pressed now r sw).btnT = timerAfter now r sw := rfl

@[simp] theorem btn_btnState (pressed : Bool) (now : Time) (r : EncRec) (sw : Bool) : (btn pressed now r sw).btnState = if levelAccepted now r sw = true then sw else r.btnState := rfl

@[simp] theorem btn_btnPressed (pressed : Bool) (now : Time) (r : EncRec) (sw : Bool) : (btn pressed now r sw).btnPressed = (r.btnPressed || (levelAccepted now r sw && sw == pressed)) := rfl

@[simp] theorem timerAfter_rot (now : Time) (r : EncRec) (clk dt sw : Bool) :
    timerAfter now (rot r clk dt) sw = timerAfter now r sw := rfl

@[simp] theorem levelAccepted_rot (now : Time) (r : EncRec) (clk dt sw : Bool) :
    levelAccepted now (rot r clk dt) sw = levelAccepted now r sw := rfl

theorem timerAfter_changed (now : Time) (r : EncRec) (sw : Bool) (h : sw ≠ r.btnRawPrev) : timerAfter now r sw = now := by
  simp [timerAfter, h]

theorem timerAfter_steady (now : Time) (r : EncRec) : timerAfter now r r.btnRawPrev = r.btnT := by
  simp [timerAfter]

/-- A level is accepted when it has been stable longer than the window and is new. -/
theorem levelAccepted_iff (now : Time) (r : EncRec) (sw : Bool) : levelAccepted now r sw = true ↔
    50 < (now - timerAfter now r sw).toNat ∧ sw ≠ r.btnState := by
  unfold levelAccepted
  rw [Bool.and_eq_true, decide_eq_true_iff, bne_iff_ne]
  rfl

/-- The debounced level itself is never accepted again. -/
@[simp] theorem levelAccepted_same (now : Time) (r : EncRec) : levelAccepted now r r.btnState = false := by
  simp [levelAccepted]

/-! ## One ENC.TICK (R220) -/

variable (s : State)

theorem State.tickOp_of_exists (c : Byte) (clk dt sw : Bool) (h : channelExists s.params c) : s.tickOp c clk dt sw =
    (s.setEnc c (btn s.params.pressedLevel s.ports.now (rot (s.encAt c) clk dt) sw)).ret 0 :=
  s.withChannel_of_exists c _ h

theorem State.tickOp_of_absent (c : Byte) (clk dt sw : Bool) (h : ¬ channelExists s.params c) :
    s.tickOp c clk dt sw = (s.flag .chRange).ret 0 := s.withChannel_of_absent c _ h

theorem State.tickOp_encAt_ne (c d : Byte) (clk dt sw : Bool) (h : d ≠ c) :
    (s.tickOp c clk dt sw).encAt d = s.encAt d := by
  apply s.withChannel_cases (fun t => t.encAt d = s.encAt d) c <;> intros <;> simp [State.encAt_setEnc_ne _ _ _ _ h]

@[simp] theorem State.tickOp_params (c : Byte) (clk dt sw : Bool) : (s.tickOp c clk dt sw).params = s.params := by
  apply s.withChannel_cases (fun t => t.params = s.params) c <;> intros <;> rfl

@[simp] theorem State.tickOp_fad (c : Byte) (clk dt sw : Bool) : (s.tickOp c clk dt sw).fad = s.fad := by
  apply s.withChannel_cases (fun t => t.fad = s.fad) c <;> intros <;> rfl

@[simp] theorem State.tickOp_fadAt (c : Byte) (clk dt sw : Bool) (d : Byte) : (s.tickOp c clk dt sw).fadAt d = s.fadAt d := by
  simp [State.fadAt]

@[simp] theorem State.tickOp_ico (c : Byte) (clk dt sw : Bool) : (s.tickOp c clk dt sw).ico = s.ico := by
  apply s.withChannel_cases (fun t => t.ico = s.ico) c <;> intros <;> rfl

@[simp] theorem State.tickOp_icoAt (c : Byte) (clk dt sw : Bool) (d : Byte) : (s.tickOp c clk dt sw).icoAt d = s.icoAt d := by
  simp [State.icoAt]

@[simp] theorem State.tickOp_rx (c : Byte) (clk dt sw : Bool) : (s.tickOp c clk dt sw).rx = s.rx := by
  apply s.withChannel_cases (fun t => t.rx = s.rx) c <;> intros <;> rfl

@[simp] theorem State.tickOp_mem (c : Byte) (clk dt sw : Bool) : (s.tickOp c clk dt sw).mem = s.mem := by
  apply s.withChannel_cases (fun t => t.mem = s.mem) c <;> intros <;> rfl

@[simp] theorem State.tickOp_tx (c : Byte) (clk dt sw : Bool) : (s.tickOp c clk dt sw).tx = s.tx := by
  apply s.withChannel_cases (fun t => t.tx = s.tx) c <;> intros <;> rfl

@[simp] theorem State.tickOp_ev (c : Byte) (clk dt sw : Bool) : (s.tickOp c clk dt sw).ev = s.ev := by
  apply s.withChannel_cases (fun t => t.ev = s.ev) c <;> intros <;> rfl

@[simp] theorem State.tickOp_ports (c : Byte) (clk dt sw : Bool) : (s.tickOp c clk dt sw).ports = s.ports := by
  apply s.withChannel_cases (fun t => t.ports = s.ports) c <;> intros <;> rfl

@[simp] theorem State.tickOp_trace (c : Byte) (clk dt sw : Bool) : (s.tickOp c clk dt sw).trace = s.trace := by
  apply s.withChannel_cases (fun t => t.trace = s.trace) c <;> intros <;> rfl

@[simp] theorem State.tickOp_drawn (c : Byte) (clk dt sw : Bool) : (s.tickOp c clk dt sw).drawn = s.drawn := by
  apply s.withChannel_cases (fun t => t.drawn = s.drawn) c <;> intros <;> rfl

end Sys2Proof.Machine
end

