-- ==== Sys2Proof/Laws/Fader.lean ====
section
/-! SUPPORT. The arithmetic of the filter, the quantiser and the gate, what one FAD.SAMPLE does, and what it leaves
alone. -/

namespace Sys2Proof.Machine

/-! ## Arithmetic (R202 to R204) -/

theorem filt_toNat (r : FadRec) (raw : BitVec 10) : (filt r raw).toNat =
    if r.valid = true then (r.filt.toNat * 3 + raw.toNat) / 4 else raw.toNat := by
  unfold filt
  split
  · rw [BitVec.toNat_ofNat]
    simp only [Config.filtNum, Config.filtDen]
    have := r.filt.isLt; have := raw.isLt
    exact Nat.mod_eq_of_lt (by omega)
  · rfl

theorem quant_toNat (f : BitVec 10) : (quant f).toNat = f.toNat * 255 / 1023 := by
  unfold quant
  rw [BitVec.toNat_ofNat]
  simp only [Config.outMax, Config.adcMax]
  have := f.isLt
  exact Nat.mod_eq_of_lt (by omega)

@[simp] theorem distance_self (a : Byte) : distance a a = 0 := by simp [distance]

theorem sampleDue_iff (now : Time) (r : FadRec) : sampleDue now r = true ↔ 20 ≤ (now - r.t).toNat := by
  unfold sampleDue
  rw [decide_eq_true_iff]
  rfl

/-! ## The gate (R204), its two cases -/

variable (s : State)

theorem State.gate_open (c q : Byte) (h : gateOpens s.params.deadband (s.fadAt c) q = true) :
    s.gate c q = (s.setFad c { s.fadAt c with sent := q, sentValid := true }).sendMessage (faderUpdMessage c q) :=
  if_pos h

theorem State.gate_closed (c q : Byte) (h : gateOpens s.params.deadband (s.fadAt c) q = false) : s.gate c q = s := by
  simp [State.gate, h]

/-- A closed gate: something has been sent, and it is within DEADBAND. -/
theorem gateOpens_false (deadband : Nat) (r : FadRec) (q : Byte) :
    gateOpens deadband r q = false ↔ r.sentValid = true ∧ distance q r.sent ≤ deadband := by
  simp [gateOpens]

/-! ## One FAD.SAMPLE (R200), its three cases -/

/-- The record a taken sample leaves before the gate. -/
def FadRec.sampled (r : FadRec) (now : Time) (raw : BitVec 10) : FadRec :=
  { r with t := now, filt := Sys2Proof.Machine.filt r raw, valid := true }

theorem State.sampleOp_skipped (c : Byte) (raw : BitVec 10) (hc : channelExists s.params c)
    (h : sampleDue s.ports.now (s.fadAt c) = false) : s.sampleOp c raw = s.ret 0 := by
  simp [State.sampleOp, s.withChannel_of_exists c _ hc, h]

theorem State.sampleOp_silent (c : Byte) (raw : BitVec 10) (hc : channelExists s.params c)
    (h : sampleDue s.ports.now (s.fadAt c) = true)
    (hg : gateOpens s.params.deadband (s.fadAt c) (quant (filt (s.fadAt c) raw)) = false) :
    s.sampleOp c raw = (s.setFad c ((s.fadAt c).sampled s.ports.now raw)).ret 0 := by
  rw [State.sampleOp, s.withChannel_of_exists c _ hc]
  simp only [h, if_true]
  rw [State.gate_closed]
  · rfl
  · rw [State.fadAt_setFad_same]; exact hg

theorem State.sampleOp_reports (c : Byte) (raw : BitVec 10) (hc : channelExists s.params c)
    (h : sampleDue s.ports.now (s.fadAt c) = true)
    (hg : gateOpens s.params.deadband (s.fadAt c) (quant (filt (s.fadAt c) raw)) = true) :
    s.sampleOp c raw = ((s.setFad c { (s.fadAt c).sampled s.ports.now raw with
      sent := quant (filt (s.fadAt c) raw), sentValid := true }).sendMessage
        (faderUpdMessage c (quant (filt (s.fadAt c) raw)))).ret 0 := by
  rw [State.sampleOp, s.withChannel_of_exists c _ hc]
  simp only [h, if_true]
  rw [State.gate_open]
  · simp only [State.fadAt_setFad_same, State.setFad_setFad]; rfl
  · rw [State.fadAt_setFad_same]; exact hg

/-- What holds of the four cases holds of the operation. -/
theorem State.sampleOp_cases (P : State → Prop) (c : Byte) (raw : BitVec 10)
    (absent : ¬ channelExists s.params c → P ((s.flag .chRange).ret 0))
    (skipped : channelExists s.params c → sampleDue s.ports.now (s.fadAt c) = false → P (s.ret 0))
    (silent : channelExists s.params c → sampleDue s.ports.now (s.fadAt c) = true →
      gateOpens s.params.deadband (s.fadAt c) (quant (filt (s.fadAt c) raw)) = false →
      P ((s.setFad c ((s.fadAt c).sampled s.ports.now raw)).ret 0))
    (reports : channelExists s.params c → sampleDue s.ports.now (s.fadAt c) = true →
      gateOpens s.params.deadband (s.fadAt c) (quant (filt (s.fadAt c) raw)) = true →
      P (((s.setFad c { (s.fadAt c).sampled s.ports.now raw with
        sent := quant (filt (s.fadAt c) raw), sentValid := true }).sendMessage
          (faderUpdMessage c (quant (filt (s.fadAt c) raw)))).ret 0)) : P (s.sampleOp c raw) := by
  by_cases hc : channelExists s.params c
  · cases h : sampleDue s.ports.now (s.fadAt c)
    · rw [s.sampleOp_skipped c raw hc h]; exact skipped hc h
    · cases hg : gateOpens s.params.deadband (s.fadAt c) (quant (filt (s.fadAt c) raw))
      · rw [s.sampleOp_silent c raw hc h hg]; exact silent hc h hg
      · rw [s.sampleOp_reports c raw hc h hg]; exact reports hc h hg
  · rw [State.sampleOp, s.withChannel_of_absent c _ hc]; exact absent hc

/-! ## What FAD.SAMPLE leaves alone -/

theorem State.sampleOp_fadAt_ne (c d : Byte) (raw : BitVec 10) (h : d ≠ c) :
    (s.sampleOp c raw).fadAt d = s.fadAt d := by
  apply s.sampleOp_cases (fun t => t.fadAt d = s.fadAt d) c raw <;> intros <;> simp [State.fadAt_setFad_ne _ _ _ _ h]

@[simp] theorem State.sampleOp_params (c : Byte) (raw : BitVec 10) : (s.sampleOp c raw).params = s.params := by
  apply s.sampleOp_cases (fun t => t.params = s.params) c raw <;> intros <;> rfl

@[simp] theorem State.sampleOp_enc (c : Byte) (raw : BitVec 10) : (s.sampleOp c raw).enc = s.enc := by
  apply s.sampleOp_cases (fun t => t.enc = s.enc) c raw <;> intros <;> rfl

@[simp] theorem State.sampleOp_encAt (c : Byte) (raw : BitVec 10) (d : Byte) : (s.sampleOp c raw).encAt d = s.encAt d := by
  simp [State.encAt]

@[simp] theorem State.sampleOp_ico (c : Byte) (raw : BitVec 10) : (s.sampleOp c raw).ico = s.ico := by
  apply s.sampleOp_cases (fun t => t.ico = s.ico) c raw <;> intros <;> rfl

@[simp] theorem State.sampleOp_icoAt (c : Byte) (raw : BitVec 10) (d : Byte) : (s.sampleOp c raw).icoAt d = s.icoAt d := by
  simp [State.icoAt]

@[simp] theorem State.sampleOp_rx (c : Byte) (raw : BitVec 10) : (s.sampleOp c raw).rx = s.rx := by
  apply s.sampleOp_cases (fun t => t.rx = s.rx) c raw <;> intros <;> rfl

@[simp] theorem State.sampleOp_mem (c : Byte) (raw : BitVec 10) : (s.sampleOp c raw).mem = s.mem := by
  apply s.sampleOp_cases (fun t => t.mem = s.mem) c raw <;> intros <;> rfl

@[simp] theorem State.sampleOp_ev (c : Byte) (raw : BitVec 10) : (s.sampleOp c raw).ev = s.ev := by
  apply s.sampleOp_cases (fun t => t.ev = s.ev) c raw <;> intros <;> rfl

@[simp] theorem State.sampleOp_ports (c : Byte) (raw : BitVec 10) : (s.sampleOp c raw).ports = s.ports := by
  apply s.sampleOp_cases (fun t => t.ports = s.ports) c raw <;> intros <;> rfl

@[simp] theorem State.sampleOp_trace (c : Byte) (raw : BitVec 10) : (s.sampleOp c raw).trace = s.trace := by
  apply s.sampleOp_cases (fun t => t.trace = s.trace) c raw <;> intros <;> rfl

@[simp] theorem State.sampleOp_drawn (c : Byte) (raw : BitVec 10) : (s.sampleOp c raw).drawn = s.drawn := by
  apply s.sampleOp_cases (fun t => t.drawn = s.drawn) c raw <;> intros <;> rfl

end Sys2Proof.Machine
end

