-- ==== Sys2Proof/Laws/Icon.lean ====
section
/-! SUPPORT. What IcoStart and IcoAddByte do, case by case, and what they leave alone. -/

namespace Sys2Proof.Machine

variable (s : State)

/-! ## IcoStart (R170) -/

@[simp] theorem State.icoStart_icoAt_same (c : Byte) :
    (s.icoStart c).icoAt c = ⟨false, false, 0, .awaitingHigh, (s.icoAt c).hi⟩ := by simp [State.icoStart]

theorem State.icoStart_icoAt_ne (c d : Byte) (h : d ≠ c) : (s.icoStart c).icoAt d = s.icoAt d := by
  simp [State.icoStart, State.icoAt_setIco_ne _ _ _ _ h]

@[simp] theorem State.icoStart_params (c : Byte) : (s.icoStart c).params = s.params := by
  simp [State.icoStart]

@[simp] theorem State.icoStart_enc (c : Byte) : (s.icoStart c).enc = s.enc := by
  simp [State.icoStart]

@[simp] theorem State.icoStart_encAt (c : Byte) (d : Byte) : (s.icoStart c).encAt d = s.encAt d := by
  simp [State.encAt]

@[simp] theorem State.icoStart_fad (c : Byte) : (s.icoStart c).fad = s.fad := by
  simp [State.icoStart]

@[simp] theorem State.icoStart_fadAt (c : Byte) (d : Byte) : (s.icoStart c).fadAt d = s.fadAt d := by
  simp [State.fadAt]

@[simp] theorem State.icoStart_rx (c : Byte) : (s.icoStart c).rx = s.rx := by
  simp [State.icoStart]

@[simp] theorem State.icoStart_status (c : Byte) : (s.icoStart c).status = s.status := by
  simp [State.icoStart]

@[simp] theorem State.icoStart_mem (c : Byte) : (s.icoStart c).mem = s.mem := by
  simp [State.icoStart]

@[simp] theorem State.icoStart_tx (c : Byte) : (s.icoStart c).tx = s.tx := by
  simp [State.icoStart]

@[simp] theorem State.icoStart_ev (c : Byte) : (s.icoStart c).ev = s.ev := by
  simp [State.icoStart]

@[simp] theorem State.icoStart_res (c : Byte) : (s.icoStart c).res = s.res := by
  simp [State.icoStart]

@[simp] theorem State.icoStart_ports (c : Byte) : (s.icoStart c).ports = s.ports := by
  simp [State.icoStart]

@[simp] theorem State.icoStart_trace (c : Byte) : (s.icoStart c).trace = s.trace := by
  simp [State.icoStart]

@[simp] theorem State.icoStart_drawn (c : Byte) : (s.icoStart c).drawn = s.drawn := by
  simp [State.icoStart]

/-! ## IcoAddByte (R171), its three cases -/

theorem State.icoAddByte_high (c b : Byte) (h : (s.icoAt c).phase = .awaitingHigh) :
    s.icoAddByte c b = s.setIco c { s.icoAt c with hi := b, phase := .awaitingLow } := by
  simp [State.icoAddByte, h]

theorem State.icoAddByte_store (c b : Byte) (h : (s.icoAt c).phase = .awaitingLow)
    (hc : (s.icoAt c).cursor.toNat < Config.npix) :
    s.icoAddByte c b = (s.writePixel c (s.icoAt c).cursor.toNat (s.icoAt c).hi b).setIco c
      { s.icoAt c with
        cursor := (s.icoAt c).cursor + 1
        ready := (s.icoAt c).ready || decide (((s.icoAt c).cursor + 1).toNat = Config.npix)
        phase := .awaitingHigh } := by
  simp [State.icoAddByte, h, State.icoLowByte, hc]

theorem State.icoAddByte_full (c b : Byte) (h : (s.icoAt c).phase = .awaitingLow)
    (hc : ¬ (s.icoAt c).cursor.toNat < Config.npix) :
    s.icoAddByte c b = s.setIco c { s.icoAt c with phase := .awaitingHigh } := by
  simp [State.icoAddByte, h, State.icoLowByte, hc]

/-- Within bounds the cursor advances without wrapping. -/
theorem cursor_succ (cursor : BitVec 13) (h : cursor.toNat < Config.npix) :
    (cursor + 1).toNat = cursor.toNat + 1 := by
  have : cursor.toNat < 4096 := h
  rw [BitVec.toNat_add]
  show (cursor.toNat + 1) % 8192 = _
  omega

/-- What holds of the three cases holds of the operation. -/
theorem State.icoAddByte_cases (P : State → Prop) (c b : Byte)
    (high : (s.icoAt c).phase = .awaitingHigh → P (s.setIco c { s.icoAt c with hi := b, phase := .awaitingLow }))
    (store : (s.icoAt c).phase = .awaitingLow → (s.icoAt c).cursor.toNat < Config.npix →
      P ((s.writePixel c (s.icoAt c).cursor.toNat (s.icoAt c).hi b).setIco c
        { s.icoAt c with
          cursor := (s.icoAt c).cursor + 1
          ready := (s.icoAt c).ready || decide (((s.icoAt c).cursor + 1).toNat = Config.npix)
          phase := .awaitingHigh }))
    (full : (s.icoAt c).phase = .awaitingLow → ¬ (s.icoAt c).cursor.toNat < Config.npix →
      P (s.setIco c { s.icoAt c with phase := .awaitingHigh })) : P (s.icoAddByte c b) := by
  rcases hp : (s.icoAt c).phase with _ | _
  · rw [s.icoAddByte_high c b hp]; exact high hp
  · by_cases hc : (s.icoAt c).cursor.toNat < Config.npix
    · rw [s.icoAddByte_store c b hp hc]; exact store hp hc
    · rw [s.icoAddByte_full c b hp hc]; exact full hp hc

/-! ## What IcoAddByte leaves alone -/

theorem State.icoAddByte_icoAt_ne (c b d : Byte) (h : d ≠ c) : (s.icoAddByte c b).icoAt d = s.icoAt d := by
  apply s.icoAddByte_cases (fun t => t.icoAt d = s.icoAt d) c b <;> intros <;> simp [State.icoAt_setIco_ne _ _ _ _ h]

theorem State.icoAddByte_pixelAt_ne (c b d : Byte) (i : Nat) (h : d ≠ c) (hi : i < Config.npix) :
    Memory.pixelAt (s.icoAddByte c b).mem d i = Memory.pixelAt s.mem d i := by
  apply s.icoAddByte_cases (fun t => Memory.pixelAt t.mem d i = Memory.pixelAt s.mem d i) c b
  · intros; simp
  · intro _ hc
    simp only [State.setIco_mem, State.writePixel_mem]
    exact Memory.pixelAt_storePixel_ne _ _ _ _ _ _ _ hc hi (fun e => h e.1)
  · intros; simp

@[simp] theorem State.icoAddByte_placeholder (c b d : Byte) :
    ((s.icoAddByte c b).icoAt d).placeholder = (s.icoAt d).placeholder := by
  by_cases h : d = c
  · subst h
    apply s.icoAddByte_cases (fun t => (t.icoAt d).placeholder = (s.icoAt d).placeholder) d b <;> intros <;> simp
  · rw [s.icoAddByte_icoAt_ne c b d h]

@[simp] theorem State.icoAddByte_params (c b : Byte) : (s.icoAddByte c b).params = s.params := by
  apply s.icoAddByte_cases (fun t => t.params = s.params) c b <;> intros <;> rfl

@[simp] theorem State.icoAddByte_enc (c b : Byte) : (s.icoAddByte c b).enc = s.enc := by
  apply s.icoAddByte_cases (fun t => t.enc = s.enc) c b <;> intros <;> rfl

@[simp] theorem State.icoAddByte_encAt (c b : Byte) (d : Byte) : (s.icoAddByte c b).encAt d = s.encAt d := by
  simp [State.encAt]

@[simp] theorem State.icoAddByte_fad (c b : Byte) : (s.icoAddByte c b).fad = s.fad := by
  apply s.icoAddByte_cases (fun t => t.fad = s.fad) c b <;> intros <;> rfl

@[simp] theorem State.icoAddByte_fadAt (c b : Byte) (d : Byte) : (s.icoAddByte c b).fadAt d = s.fadAt d := by
  simp [State.fadAt]

@[simp] theorem State.icoAddByte_rx (c b : Byte) : (s.icoAddByte c b).rx = s.rx := by
  apply s.icoAddByte_cases (fun t => t.rx = s.rx) c b <;> intros <;> rfl

@[simp] theorem State.icoAddByte_status (c b : Byte) : (s.icoAddByte c b).status = s.status := by
  apply s.icoAddByte_cases (fun t => t.status = s.status) c b <;> intros <;> rfl

@[simp] theorem State.icoAddByte_tx (c b : Byte) : (s.icoAddByte c b).tx = s.tx := by
  apply s.icoAddByte_cases (fun t => t.tx = s.tx) c b <;> intros <;> rfl

@[simp] theorem State.icoAddByte_ev (c b : Byte) : (s.icoAddByte c b).ev = s.ev := by
  apply s.icoAddByte_cases (fun t => t.ev = s.ev) c b <;> intros <;> rfl

@[simp] theorem State.icoAddByte_res (c b : Byte) : (s.icoAddByte c b).res = s.res := by
  apply s.icoAddByte_cases (fun t => t.res = s.res) c b <;> intros <;> rfl

@[simp] theorem State.icoAddByte_ports (c b : Byte) : (s.icoAddByte c b).ports = s.ports := by
  apply s.icoAddByte_cases (fun t => t.ports = s.ports) c b <;> intros <;> rfl

@[simp] theorem State.icoAddByte_trace (c b : Byte) : (s.icoAddByte c b).trace = s.trace := by
  apply s.icoAddByte_cases (fun t => t.trace = s.trace) c b <;> intros <;> rfl

@[simp] theorem State.icoAddByte_drawn (c b : Byte) : (s.icoAddByte c b).drawn = s.drawn := by
  apply s.icoAddByte_cases (fun t => t.drawn = s.drawn) c b <;> intros <;> rfl

end Sys2Proof.Machine
end

