-- ==== Sys2Proof/Laws/PerInstr.lean ====
section
/-! SUPPORT. The family EncodesEveryMember: an operation has exactly one request for each operation it is made of, so
the encoder drops no member of a pseudo-operation and adds none. One lemma per constructor of Instr. -/

namespace Sys2Proof.Laws.EncodesEveryMember

/-- Whatever the parameters, there is one request for each member (R110). -/
def Statement (i : Instr) : Prop := ∀ p : Params, (encode p i).length = i.expand.length

/-- Members that all have a request are all encoded. -/
theorem length_filterMap {α β : Type} (f : α → Option β) (members : List α) (h : ∀ x ∈ members, (f x).isSome) :
    (members.filterMap f).length = members.length := by
  induction members with
  | nil => rfl
  | cons x rest ih =>
    obtain ⟨y, hy⟩ := Option.isSome_iff_exists.1 (h x List.mem_cons_self)
    rw [List.filterMap_cons_some hy, List.length_cons, List.length_cons,
      ih (fun z hz => h z (List.mem_cons_of_mem _ hz))]

theorem nop : Statement .nop := fun _ => rfl
theorem rxByte (b : Byte) : Statement (.rxByte b) := fun _ => rfl
theorem rxRearm : Statement .rxRearm := fun _ => rfl
theorem icoStart (ch : Byte) : Statement (.icoStart ch) := fun _ => rfl
theorem icoAddByte (ch b : Byte) : Statement (.icoAddByte ch b) := fun _ => rfl
theorem icoIsReady (ch : Byte) : Statement (.icoIsReady ch) := fun _ => rfl
theorem icoSetPh (ch : Byte) (v : Bool) : Statement (.icoSetPh ch v) := fun _ => rfl
theorem icoDraw (ch : Byte) (x y : BitVec 10) : Statement (.icoDraw ch x y) := fun _ => rfl
theorem icoRdPix (ch : Byte) (i : BitVec 12) : Statement (.icoRdPix ch i) := fun _ => rfl
theorem fadSample (ch : Byte) (raw : BitVec 10) : Statement (.fadSample ch raw) := fun _ => rfl
theorem encTick (ch : Byte) (clk dt sw : Bool) : Statement (.encTick ch clk dt sw) := fun _ => rfl
theorem encGetDelta (ch : Byte) : Statement (.encGetDelta ch) := fun _ => rfl
theorem encWasPressed (ch : Byte) : Statement (.encWasPressed ch) := fun _ => rfl
theorem statRead : Statement .statRead := fun _ => rfl
theorem statClear : Statement .statClear := fun _ => rfl
theorem reservedF : Statement .reservedF := fun _ => rfl
theorem hsReq : Statement .hsReq := fun _ => rfl
theorem hsResp : Statement .hsResp := fun _ => rfl
theorem faderUpd (ch position : Byte) : Statement (.faderUpd ch position) := fun _ => rfl
theorem appName (ch : Byte) (text : List Byte) : Statement (.appName ch text) := fun _ => rfl
theorem volume (ch value : Byte) : Statement (.volume ch value) := fun _ => rfl
theorem icon (ch : Byte) (pixels : List Byte) : Statement (.icon ch pixels) := fun _ => rfl
theorem unrecognised (b : Byte) : Statement (.unrecognised b) := fun _ => rfl

theorem tick (inputs : List TickInput) : Statement (.tick inputs) := fun p => by
  refine length_filterMap (encodeOne p) _ (fun x hx => ?_)
  simp only [Instr.expand, List.mem_append, List.mem_mapIdx] at hx
  rcases hx with ⟨_, _, rfl⟩ | ⟨_, _, rfl⟩ <;> rfl

theorem rxFrame (bytes : List Byte) : Statement (.rxFrame bytes) := fun p => by
  refine length_filterMap (encodeOne p) _ (fun x hx => ?_)
  obtain ⟨_, _, rfl⟩ := List.mem_map.1 hx
  rfl

theorem icoStream (ch : Byte) (bytes : List Byte) : Statement (.icoStream ch bytes) := fun p => by
  refine length_filterMap (encodeOne p) _ (fun x hx => ?_)
  obtain ⟨_, _, rfl⟩ := List.mem_map.1 hx
  rfl

end Sys2Proof.Laws.EncodesEveryMember
end

