-- ==== Sys2Proof/Laws/Wire.lean ====
section
/-! SUPPORT. What the parser does with one byte, case by case, and what it leaves alone. -/

namespace Sys2Proof.Machine

variable (s : State)

/-! ## The handshake (R136) -/

/-- The message HsRespond sends is the announcement of R94. -/
theorem hsRespMessage_eq (p : Params) (uuid : BitVec 128) :
    hsRespMessage p (uuidBytes uuid) = announcement p uuid := by
  simp [hsRespMessage, announcement, uuidBytes, Config.uuidLen]

theorem announcement_length (p : Params) (uuid : BitVec 128) : (announcement p uuid).length = 29 := by
  simp [announcement]

theorem State.hsRespond_known (h : s.ports.uuidValid = true) :
    s.hsRespond = s.sendMessage (announcement s.params s.ports.uuid) := by
  simp [State.hsRespond, h, hsRespMessage_eq]

theorem State.hsRespond_unknown (h : s.ports.uuidValid = false) : s.hsRespond = s.flag .noId := by
  simp [State.hsRespond, h]

/-- What holds of both answers holds of the handshake. -/
theorem State.hsRespond_cases (P : State → Prop)
    (known : s.ports.uuidValid = true → P (s.sendMessage (announcement s.params s.ports.uuid)))
    (unknown : s.ports.uuidValid = false → P (s.flag .noId)) : P s.hsRespond := by
  cases h : s.ports.uuidValid
  · rw [s.hsRespond_unknown h]; exact unknown h
  · rw [s.hsRespond_known h]; exact known h

@[simp] theorem State.hsRespond_params : (s.hsRespond).params = s.params := by
  apply s.hsRespond_cases (fun t => t.params = s.params) <;> intros <;> rfl

@[simp] theorem State.hsRespond_enc : (s.hsRespond).enc = s.enc := by
  apply s.hsRespond_cases (fun t => t.enc = s.enc) <;> intros <;> rfl

@[simp] theorem State.hsRespond_encAt  (d : Byte) : (s.hsRespond).encAt d = s.encAt d := by
  simp [State.encAt]

@[simp] theorem State.hsRespond_fad : (s.hsRespond).fad = s.fad := by
  apply s.hsRespond_cases (fun t => t.fad = s.fad) <;> intros <;> rfl

@[simp] theorem State.hsRespond_fadAt  (d : Byte) : (s.hsRespond).fadAt d = s.fadAt d := by
  simp [State.fadAt]

@[simp] theorem State.hsRespond_ico : (s.hsRespond).ico = s.ico := by
  apply s.hsRespond_cases (fun t => t.ico = s.ico) <;> intros <;> rfl

@[simp] theorem State.hsRespond_icoAt  (d : Byte) : (s.hsRespond).icoAt d = s.icoAt d := by
  simp [State.icoAt]

@[simp] theorem State.hsRespond_rx : (s.hsRespond).rx = s.rx := by
  apply s.hsRespond_cases (fun t => t.rx = s.rx) <;> intros <;> rfl

@[simp] theorem State.hsRespond_mem : (s.hsRespond).mem = s.mem := by
  apply s.hsRespond_cases (fun t => t.mem = s.mem) <;> intros <;> rfl

@[simp] theorem State.hsRespond_ev : (s.hsRespond).ev = s.ev := by
  apply s.hsRespond_cases (fun t => t.ev = s.ev) <;> intros <;> rfl

@[simp] theorem State.hsRespond_res : (s.hsRespond).res = s.res := by
  apply s.hsRespond_cases (fun t => t.res = s.res) <;> intros <;> rfl

@[simp] theorem State.hsRespond_ports : (s.hsRespond).ports = s.ports := by
  apply s.hsRespond_cases (fun t => t.ports = s.ports) <;> intros <;> rfl

@[simp] theorem State.hsRespond_trace : (s.hsRespond).trace = s.trace := by
  apply s.hsRespond_cases (fun t => t.trace = s.trace) <;> intros <;> rfl

@[simp] theorem State.hsRespond_drawn : (s.hsRespond).drawn = s.drawn := by
  apply s.hsRespond_cases (fun t => t.drawn = s.drawn) <;> intros <;> rfl

/-! ## The channel field (R132, R145) -/

theorem State.rxChannel_cases (P : State → Prop) (b : Byte)
    (absent : ¬ channelExists s.params b → P ((s.setRx { s.rx with ch := b }).flag .chRange))
    (icon : channelExists s.params b → s.rx.cmd = s.params.cmdIcon → P ((s.setRx { s.rx with ch := b }).icoStart b))
    (short : channelExists s.params b → s.rx.cmd ≠ s.params.cmdIcon → P (s.setRx { s.rx with ch := b })) :
    P (s.rxChannel b) := by
  unfold State.rxChannel
  by_cases h : channelExists s.params b
  · by_cases hc : s.rx.cmd = s.params.cmdIcon
    · simpa [h, hc] using icon h hc
    · simpa [h, hc] using short h hc
  · simpa [h] using absent h

@[simp] theorem State.rxChannel_rx (b : Byte) : (s.rxChannel b).rx = { s.rx with ch := b } := by
  apply s.rxChannel_cases (fun t => t.rx = { s.rx with ch := b }) <;> intros <;> simp

@[simp] theorem State.rxChannel_params (b : Byte) : (s.rxChannel b).params = s.params := by
  apply s.rxChannel_cases (fun t => t.params = s.params) <;> intros <;> simp

@[simp] theorem State.rxChannel_enc (b : Byte) : (s.rxChannel b).enc = s.enc := by
  apply s.rxChannel_cases (fun t => t.enc = s.enc) <;> intros <;> simp

@[simp] theorem State.rxChannel_encAt (b : Byte) (d : Byte) : (s.rxChannel b).encAt d = s.encAt d := by
  simp [State.encAt]

@[simp] theorem State.rxChannel_fad (b : Byte) : (s.rxChannel b).fad = s.fad := by
  apply s.rxChannel_cases (fun t => t.fad = s.fad) <;> intros <;> simp

@[simp] theorem State.rxChannel_fadAt (b : Byte) (d : Byte) : (s.rxChannel b).fadAt d = s.fadAt d := by
  simp [State.fadAt]

@[simp] theorem State.rxChannel_mem (b : Byte) : (s.rxChannel b).mem = s.mem := by
  apply s.rxChannel_cases (fun t => t.mem = s.mem) <;> intros <;> simp

@[simp] theorem State.rxChannel_tx (b : Byte) : (s.rxChannel b).tx = s.tx := by
  apply s.rxChannel_cases (fun t => t.tx = s.tx) <;> intros <;> simp

@[simp] theorem State.rxChannel_ev (b : Byte) : (s.rxChannel b).ev = s.ev := by
  apply s.rxChannel_cases (fun t => t.ev = s.ev) <;> intros <;> simp

@[simp] theorem State.rxChannel_ports (b : Byte) : (s.rxChannel b).ports = s.ports := by
  apply s.rxChannel_cases (fun t => t.ports = s.ports) <;> intros <;> simp

@[simp] theorem State.rxChannel_trace (b : Byte) : (s.rxChannel b).trace = s.trace := by
  apply s.rxChannel_cases (fun t => t.trace = s.trace) <;> intros <;> simp

@[simp] theorem State.rxChannel_drawn (b : Byte) : (s.rxChannel b).drawn = s.drawn := by
  apply s.rxChannel_cases (fun t => t.drawn = s.drawn) <;> intros <;> simp

/-! ## A payload byte after the channel (R133) -/

theorem State.rxData_cases (P : State → Prop) (b : Byte)
    (text : s.rx.cmd = s.params.cmdAppName →
      P (s.setRx { s.rx with buf := s.rx.buf.setIfInBounds (s.rx.idx.toNat - 1) b }))
    (volume : s.rx.cmd ≠ s.params.cmdAppName → s.rx.cmd = s.params.cmdVolume →
      P (s.setRx { s.rx with buf := s.rx.buf.set 0 b }))
    (pixel : s.rx.cmd ≠ s.params.cmdAppName → s.rx.cmd ≠ s.params.cmdVolume → s.rx.cmd = s.params.cmdIcon →
      channelExists s.params s.rx.ch → P (s.icoAddByte s.rx.ch b))
    (discard : s.rx.cmd ≠ s.params.cmdAppName → s.rx.cmd ≠ s.params.cmdVolume →
      (s.rx.cmd = s.params.cmdIcon → ¬ channelExists s.params s.rx.ch) → P s) : P (s.rxData b) := by
  unfold State.rxData
  by_cases h1 : s.rx.cmd = s.params.cmdAppName
  · simpa [h1] using text h1
  · by_cases h2 : s.rx.cmd = s.params.cmdVolume
    · rw [if_neg h1, if_pos h2]; exact volume h1 h2
    · rw [if_neg h1, if_neg h2]
      by_cases h3 : s.rx.cmd = s.params.cmdIcon
      · rw [if_pos h3]
        by_cases h4 : channelExists s.params s.rx.ch
        · rw [if_pos h4]; exact pixel h1 h2 h3 h4
        · rw [if_neg h4]; exact discard h1 h2 (fun _ => h4)
      · rw [if_neg h3]; exact discard h1 h2 (fun e => absurd e h3)

@[simp] theorem State.rxData_rx_active (b : Byte) : (s.rxData b).rx.active = s.rx.active := by
  apply s.rxData_cases (fun t => t.rx.active = s.rx.active) <;> intros <;> simp

@[simp] theorem State.rxData_rx_cmd (b : Byte) : (s.rxData b).rx.cmd = s.rx.cmd := by
  apply s.rxData_cases (fun t => t.rx.cmd = s.rx.cmd) <;> intros <;> simp

@[simp] theorem State.rxData_rx_idx (b : Byte) : (s.rxData b).rx.idx = s.rx.idx := by
  apply s.rxData_cases (fun t => t.rx.idx = s.rx.idx) <;> intros <;> simp

@[simp] theorem State.rxData_rx_ch (b : Byte) : (s.rxData b).rx.ch = s.rx.ch := by
  apply s.rxData_cases (fun t => t.rx.ch = s.rx.ch) <;> intros <;> simp

@[simp] theorem State.rxData_params (b : Byte) : (s.rxData b).params = s.params := by
  apply s.rxData_cases (fun t => t.params = s.params) <;> intros <;> simp

@[simp] theorem State.rxData_enc (b : Byte) : (s.rxData b).enc = s.enc := by
  apply s.rxData_cases (fun t => t.enc = s.enc) <;> intros <;> simp

@[simp] theorem State.rxData_encAt (b : Byte) (d : Byte) : (s.rxData b).encAt d = s.encAt d := by
  simp [State.encAt]

@[simp] theorem State.rxData_fad (b : Byte) : (s.rxData b).fad = s.fad := by
  apply s.rxData_cases (fun t => t.fad = s.fad) <;> intros <;> simp

@[simp] theorem State.rxData_fadAt (b : Byte) (d : Byte) : (s.rxData b).fadAt d = s.fadAt d := by
  simp [State.fadAt]

@[simp] theorem State.rxData_status (b : Byte) : (s.rxData b).status = s.status := by
  apply s.rxData_cases (fun t => t.status = s.status) <;> intros <;> simp

@[simp] theorem State.rxData_tx (b : Byte) : (s.rxData b).tx = s.tx := by
  apply s.rxData_cases (fun t => t.tx = s.tx) <;> intros <;> simp

@[simp] theorem State.rxData_ev (b : Byte) : (s.rxData b).ev = s.ev := by
  apply s.rxData_cases (fun t => t.ev = s.ev) <;> intros <;> simp

@[simp] theorem State.rxData_res (b : Byte) : (s.rxData b).res = s.res := by
  apply s.rxData_cases (fun t => t.res = s.res) <;> intros <;> simp

@[simp] theorem State.rxData_ports (b : Byte) : (s.rxData b).ports = s.ports := by
  apply s.rxData_cases (fun t => t.ports = s.ports) <;> intros <;> simp

@[simp] theorem State.rxData_trace (b : Byte) : (s.rxData b).trace = s.trace := by
  apply s.rxData_cases (fun t => t.trace = s.trace) <;> intros <;> simp

@[simp] theorem State.rxData_drawn (b : Byte) : (s.rxData b).drawn = s.drawn := by
  apply s.rxData_cases (fun t => t.drawn = s.drawn) <;> intros <;> simp

/-! ## The end of a frame (R134) -/

theorem State.rxDone_cases (P : State → Prop)
    (text : channelExists s.params s.rx.ch → s.rx.cmd = s.params.cmdAppName →
      P ((s.emit (.appName s.rx.ch s.rx.buf.toList)).setRx { s.rx with active := false }))
    (volume : channelExists s.params s.rx.ch → s.rx.cmd ≠ s.params.cmdAppName → s.rx.cmd = s.params.cmdVolume →
      P ((s.emit (.volume s.rx.ch (clampVolume s.rx.buf[0]))).setRx { s.rx with active := false }))
    (silent : (channelExists s.params s.rx.ch → s.rx.cmd ≠ s.params.cmdAppName ∧ s.rx.cmd ≠ s.params.cmdVolume) →
      P (s.setRx { s.rx with active := false })) : P s.rxDone := by
  unfold State.rxDone
  by_cases h : channelExists s.params s.rx.ch
  · by_cases h1 : s.rx.cmd = s.params.cmdAppName
    · simpa [h, h1] using text h h1
    · by_cases h2 : s.rx.cmd = s.params.cmdVolume
      · simp only [if_pos h, if_neg h1, if_pos h2]; exact volume h h1 h2
      · simp only [if_pos h, if_neg h1, if_neg h2]; exact silent (fun _ => ⟨h1, h2⟩)
  · simp only [if_neg h]; exact silent (fun e => absurd e h)

@[simp] theorem State.rxDone_rx : s.rxDone.rx = { s.rx with active := false } := by
  apply s.rxDone_cases (fun t => t.rx = { s.rx with active := false }) <;> intros <;> simp

@[simp] theorem State.rxDone_params : (s.rxDone).params = s.params := by
  apply s.rxDone_cases (fun t => t.params = s.params) <;> intros <;> simp

@[simp] theorem State.rxDone_enc : (s.rxDone).enc = s.enc := by
  apply s.rxDone_cases (fun t => t.enc = s.enc) <;> intros <;> simp

@[simp] theorem State.rxDone_encAt  (d : Byte) : (s.rxDone).encAt d = s.encAt d := by
  simp [State.encAt]

@[simp] theorem State.rxDone_fad : (s.rxDone).fad = s.fad := by
  apply s.rxDone_cases (fun t => t.fad = s.fad) <;> intros <;> simp

@[simp] theorem State.rxDone_fadAt  (d : Byte) : (s.rxDone).fadAt d = s.fadAt d := by
  simp [State.fadAt]

@[simp] theorem State.rxDone_ico : (s.rxDone).ico = s.ico := by
  apply s.rxDone_cases (fun t => t.ico = s.ico) <;> intros <;> simp

@[simp] theorem State.rxDone_icoAt  (d : Byte) : (s.rxDone).icoAt d = s.icoAt d := by
  simp [State.icoAt]

@[simp] theorem State.rxDone_status : (s.rxDone).status = s.status := by
  apply s.rxDone_cases (fun t => t.status = s.status) <;> intros <;> simp

@[simp] theorem State.rxDone_mem : (s.rxDone).mem = s.mem := by
  apply s.rxDone_cases (fun t => t.mem = s.mem) <;> intros <;> simp

@[simp] theorem State.rxDone_tx : (s.rxDone).tx = s.tx := by
  apply s.rxDone_cases (fun t => t.tx = s.tx) <;> intros <;> simp

@[simp] theorem State.rxDone_res : (s.rxDone).res = s.res := by
  apply s.rxDone_cases (fun t => t.res = s.res) <;> intros <;> simp

@[simp] theorem State.rxDone_ports : (s.rxDone).ports = s.ports := by
  apply s.rxDone_cases (fun t => t.ports = s.ports) <;> intros <;> simp

@[simp] theorem State.rxDone_trace : (s.rxDone).trace = s.trace := by
  apply s.rxDone_cases (fun t => t.trace = s.trace) <;> intros <;> simp

@[simp] theorem State.rxDone_drawn : (s.rxDone).drawn = s.drawn := by
  apply s.rxDone_cases (fun t => t.drawn = s.drawn) <;> intros <;> simp

/-! ## Counting a payload byte (R132) -/

theorem State.rxAdvance_more (h : (s.rx.idx + 1).toNat ≠ inboundPlen s.params s.rx.cmd) :
    s.rxAdvance = s.setRx { s.rx with idx := s.rx.idx + 1 } := if_neg h

theorem State.rxAdvance_last (h : (s.rx.idx + 1).toNat = inboundPlen s.params s.rx.cmd) :
    s.rxAdvance = (s.setRx { s.rx with idx := s.rx.idx + 1 }).rxDone := if_pos h

theorem State.rxAdvance_cases (P : State → Prop)
    (more : (s.rx.idx + 1).toNat ≠ inboundPlen s.params s.rx.cmd → P (s.setRx { s.rx with idx := s.rx.idx + 1 }))
    (last : (s.rx.idx + 1).toNat = inboundPlen s.params s.rx.cmd →
      P (s.setRx { s.rx with idx := s.rx.idx + 1 }).rxDone) : P s.rxAdvance := by
  by_cases h : (s.rx.idx + 1).toNat = inboundPlen s.params s.rx.cmd
  · rw [s.rxAdvance_last h]; exact last h
  · rw [s.rxAdvance_more h]; exact more h

/-- Within a payload the count advances without wrapping. -/
theorem idx_succ (idx : BitVec 14) (h : idx.toNat < 8193) : (idx + 1).toNat = idx.toNat + 1 := by
  rw [BitVec.toNat_add]
  show (idx.toNat + 1) % 16384 = _
  omega

@[simp] theorem State.rxAdvance_rx_cmd : s.rxAdvance.rx.cmd = s.rx.cmd := by
  apply s.rxAdvance_cases (fun t => t.rx.cmd = s.rx.cmd) <;> intros <;> simp

@[simp] theorem State.rxAdvance_params : (s.rxAdvance).params = s.params := by
  apply s.rxAdvance_cases (fun t => t.params = s.params) <;> intros <;> simp

@[simp] theorem State.rxAdvance_enc : (s.rxAdvance).enc = s.enc := by
  apply s.rxAdvance_cases (fun t => t.enc = s.enc) <;> intros <;> simp

@[simp] theorem State.rxAdvance_encAt  (d : Byte) : (s.rxAdvance).encAt d = s.encAt d := by
  simp [State.encAt]

@[simp] theorem State.rxAdvance_fad : (s.rxAdvance).fad = s.fad := by
  apply s.rxAdvance_cases (fun t => t.fad = s.fad) <;> intros <;> simp

@[simp] theorem State.rxAdvance_fadAt  (d : Byte) : (s.rxAdvance).fadAt d = s.fadAt d := by
  simp [State.fadAt]

@[simp] theorem State.rxAdvance_ico : (s.rxAdvance).ico = s.ico := by
  apply s.rxAdvance_cases (fun t => t.ico = s.ico) <;> intros <;> simp

@[simp] theorem State.rxAdvance_icoAt  (d : Byte) : (s.rxAdvance).icoAt d = s.icoAt d := by
  simp [State.icoAt]

@[simp] theorem State.rxAdvance_status : (s.rxAdvance).status = s.status := by
  apply s.rxAdvance_cases (fun t => t.status = s.status) <;> intros <;> simp

@[simp] theorem State.rxAdvance_mem : (s.rxAdvance).mem = s.mem := by
  apply s.rxAdvance_cases (fun t => t.mem = s.mem) <;> intros <;> simp

@[simp] theorem State.rxAdvance_tx : (s.rxAdvance).tx = s.tx := by
  apply s.rxAdvance_cases (fun t => t.tx = s.tx) <;> intros <;> simp

@[simp] theorem State.rxAdvance_res : (s.rxAdvance).res = s.res := by
  apply s.rxAdvance_cases (fun t => t.res = s.res) <;> intros <;> simp

@[simp] theorem State.rxAdvance_ports : (s.rxAdvance).ports = s.ports := by
  apply s.rxAdvance_cases (fun t => t.ports = s.ports) <;> intros <;> simp

@[simp] theorem State.rxAdvance_trace : (s.rxAdvance).trace = s.trace := by
  apply s.rxAdvance_cases (fun t => t.trace = s.trace) <;> intros <;> simp

@[simp] theorem State.rxAdvance_drawn : (s.rxAdvance).drawn = s.drawn := by
  apply s.rxAdvance_cases (fun t => t.drawn = s.drawn) <;> intros <;> simp

/-! ## One RX.BYTE (R130), its five cases -/

theorem State.rxByteOp_cases (P : State → Prop) (b : Byte)
    (request : s.rx.active = false → b = Config.cmdHsReq → P (s.hsRespond.ret 0))
    (opens : s.rx.active = false → b ≠ Config.cmdHsReq → s.params.framed b →
      P ((s.setRx { s.rx with cmd := b, idx := 0, active := true }).ret 0))
    (unknown : s.rx.active = false → ¬ s.params.recognised b → P ((s.flag .unknownCmd).ret 0))
    (channel : s.rx.active = true → s.rx.idx = 0 → P ((s.rxChannel b).rxAdvance.ret 0))
    (data : s.rx.active = true → s.rx.idx ≠ 0 → P ((s.rxData b).rxAdvance.ret 0)) : P (s.rxByteOp b) := by
  unfold State.rxByteOp
  cases h : s.rx.active
  · simp only [Bool.false_eq_true, if_false]
    unfold State.rxIdle
    by_cases h1 : b = Config.cmdHsReq
    · rw [if_pos h1]; exact request h h1
    · rw [if_neg h1]
      by_cases h2 : s.params.framed b
      · rw [if_pos h2]; exact opens h h1 h2
      · rw [if_neg h2]; exact unknown h (fun e => e.elim h1 h2)
  · simp only [if_true]
    unfold State.rxPayload
    by_cases h1 : s.rx.idx = 0
    · rw [if_pos h1]; exact channel h h1
    · rw [if_neg h1]; exact data h h1

/-- An inbound byte changes STATUS by recording a condition other than ERR_BAD_OP, if at all (R261). -/
theorem State.rxByteOp_status (Q : BitVec 4 → Prop) (b : Byte) (h : Q s.status)
    (flagged : ∀ k, k ≠ Cond.badOp → Q (stickySet k s.status)) : Q (s.rxByteOp b).status := by
  apply s.rxByteOp_cases (fun t => Q t.status)
  · intros
    apply s.hsRespond_cases (fun t => Q (t.ret 0).status)
    · intro _; exact h
    · intro _; exact flagged .noId (by decide)
  · intros; exact h
  · intros; exact flagged .unknownCmd (by decide)
  · intros
    apply s.rxChannel_cases (fun t => Q (t.rxAdvance.ret 0).status) b
    · intro _; rw [State.ret_status, State.rxAdvance_status]; exact flagged .chRange (by decide)
    · intros; simpa using h
    · intros; simpa using h
  · intros; simpa using h

@[simp] theorem State.rxByteOp_params (b : Byte) : (s.rxByteOp b).params = s.params := by
  apply s.rxByteOp_cases (fun t => t.params = s.params) <;> intros <;> simp

@[simp] theorem State.rxByteOp_enc (b : Byte) : (s.rxByteOp b).enc = s.enc := by
  apply s.rxByteOp_cases (fun t => t.enc = s.enc) <;> intros <;> simp

@[simp] theorem State.rxByteOp_encAt (b : Byte) (d : Byte) : (s.rxByteOp b).encAt d = s.encAt d := by
  simp [State.encAt]

@[simp] theorem State.rxByteOp_fad (b : Byte) : (s.rxByteOp b).fad = s.fad := by
  apply s.rxByteOp_cases (fun t => t.fad = s.fad) <;> intros <;> simp

@[simp] theorem State.rxByteOp_fadAt (b : Byte) (d : Byte) : (s.rxByteOp b).fadAt d = s.fadAt d := by
  simp [State.fadAt]

@[simp] theorem State.rxByteOp_ports (b : Byte) : (s.rxByteOp b).ports = s.ports := by
  apply s.rxByteOp_cases (fun t => t.ports = s.ports) <;> intros <;> simp

@[simp] theorem State.rxByteOp_trace (b : Byte) : (s.rxByteOp b).trace = s.trace := by
  apply s.rxByteOp_cases (fun t => t.trace = s.trace) <;> intros <;> simp

@[simp] theorem State.rxByteOp_drawn (b : Byte) : (s.rxByteOp b).drawn = s.drawn := by
  apply s.rxByteOp_cases (fun t => t.drawn = s.drawn) <;> intros <;> simp

/-! ## Consecutive bytes -/

@[simp] theorem State.rxBytes_nil : s.rxBytes [] = s := rfl

@[simp] theorem State.rxBytes_cons (b : Byte) (bytes : List Byte) :
    s.rxBytes (b :: bytes) = (s.rxByteOp b).rxBytes bytes := rfl

theorem State.rxBytes_append (xs ys : List Byte) : s.rxBytes (xs ++ ys) = (s.rxBytes xs).rxBytes ys :=
  List.foldl_append

/-- What every byte keeps, a sequence of bytes keeps. -/
theorem State.rxBytes_keeps (P : State → Prop) (keeps : ∀ t b, P t → P (t.rxByteOp b)) (bytes : List Byte)
    (h : P s) : P (s.rxBytes bytes) := by
  induction bytes generalizing s with
  | nil => exact h
  | cons b rest ih => exact ih _ (keeps s b h)

@[simp] theorem State.rxBytes_params (bytes : List Byte) : (s.rxBytes bytes).params = s.params := by
  exact s.rxBytes_keeps (fun t => t.params = s.params) (fun t b h => by simpa using h) bytes rfl

@[simp] theorem State.rxBytes_enc (bytes : List Byte) : (s.rxBytes bytes).enc = s.enc := by
  exact s.rxBytes_keeps (fun t => t.enc = s.enc) (fun t b h => by simpa using h) bytes rfl

@[simp] theorem State.rxBytes_encAt (bytes : List Byte) (d : Byte) : (s.rxBytes bytes).encAt d = s.encAt d := by
  simp [State.encAt]

@[simp] theorem State.rxBytes_fad (bytes : List Byte) : (s.rxBytes bytes).fad = s.fad := by
  exact s.rxBytes_keeps (fun t => t.fad = s.fad) (fun t b h => by simpa using h) bytes rfl

@[simp] theorem State.rxBytes_fadAt (bytes : List Byte) (d : Byte) : (s.rxBytes bytes).fadAt d = s.fadAt d := by
  simp [State.fadAt]

@[simp] theorem State.rxBytes_ports (bytes : List Byte) : (s.rxBytes bytes).ports = s.ports := by
  exact s.rxBytes_keeps (fun t => t.ports = s.ports) (fun t b h => by simpa using h) bytes rfl

@[simp] theorem State.rxBytes_trace (bytes : List Byte) : (s.rxBytes bytes).trace = s.trace := by
  exact s.rxBytes_keeps (fun t => t.trace = s.trace) (fun t b h => by simpa using h) bytes rfl

@[simp] theorem State.rxBytes_drawn (bytes : List Byte) : (s.rxBytes bytes).drawn = s.drawn := by
  exact s.rxBytes_keeps (fun t => t.drawn = s.drawn) (fun t b h => by simpa using h) bytes rfl

end Sys2Proof.Machine
end

