-- ==== Sys2Proof/Laws/Tick.lean ====
section
/-! SUPPORT. The pseudo-operations: what each of their members keeps, the whole keeps; and the packaged case split of
exec over the operations of the driver. -/

namespace Sys2Proof.Machine

variable (s : State)

/-- What every FAD.SAMPLE keeps, the faders' half of a tick keeps. -/
theorem State.sampleAll_keeps (P : State → Prop) (keeps : ∀ t c raw, P t → P (t.sampleOp c raw))
    (c : Nat) (inputs : List TickInput) (h : P s) : P (s.sampleAll c inputs) := by
  induction inputs generalizing s c with
  | nil => exact h
  | cons x rest ih => exact ih _ _ (keeps _ _ _ h)

/-- What every ENC.TICK keeps, the encoders' half of a tick keeps. -/
theorem State.tickAll_keeps (P : State → Prop) (keeps : ∀ t c clk dt sw, P t → P (t.tickOp c clk dt sw))
    (c : Nat) (inputs : List TickInput) (h : P s) : P (s.tickAll c inputs) := by
  induction inputs generalizing s c with
  | nil => exact h
  | cons x rest ih => exact ih _ _ (keeps _ _ _ _ _ h)

/-- What every ICO.ADDBYTE keeps, ICO.STREAM keeps. -/
theorem State.addBytes_keeps (P : State → Prop) (ch : Byte) (keeps : ∀ t b, P t → P (t.addByteOp ch b))
    (bytes : List Byte) (h : P s) : P (bytes.foldl (fun s b => s.addByteOp ch b) s) := by
  induction bytes generalizing s with
  | nil => exact h
  | cons b rest ih => exact ih _ (keeps _ _ h)

/-- What every operation of the driver and the two outbound messages keep, every operation keeps: the inbound wire
commands and the pseudo-operations are made of them. -/
theorem exec_keeps (P : State → Prop)
    (driver : ∀ s i, i.isLocal = true → P s → ∃ t, exec i s = .next t ∧ P t)
    (announce : ∀ s, P s → P (s.hsRespond.ret 0))
    (report : ∀ s ch position, P s →
      P (s.withChannel ch (fun s => (s.sendMessage (faderUpdMessage ch position)).ret 0)))
    (i : Instr) (s : State) (h : P s) : ∃ t, exec i s = .next t ∧ P t := by
  have byte : ∀ (t : State) (b : Byte), P t → P (t.rxByteOp b) := fun t b ht => by
    obtain ⟨u, hu, hP⟩ := driver t (.rxByte b) rfl ht
    cases hu; exact hP
  have sample : ∀ (t : State) (c : Byte) (raw : BitVec 10), P t → P (t.sampleOp c raw) := fun t c raw ht => by
    obtain ⟨u, hu, hP⟩ := driver t (.fadSample c raw) rfl ht
    cases hu; exact hP
  have tick : ∀ (t : State) (c : Byte) (clk dt sw : Bool), P t → P (t.tickOp c clk dt sw) := fun t c clk dt sw ht => by
    obtain ⟨u, hu, hP⟩ := driver t (.encTick c clk dt sw) rfl ht
    cases hu; exact hP
  have add : ∀ (t : State) (c b : Byte), P t → P (t.addByteOp c b) := fun t c b ht => by
    obtain ⟨u, hu, hP⟩ := driver t (.icoAddByte c b) rfl ht
    cases hu; exact hP
  cases i with
  | hsReq => exact ⟨_, rfl, s.rxBytes_keeps P byte _ h⟩
  | hsResp => exact ⟨_, rfl, announce s h⟩
  | faderUpd ch position => exact ⟨_, rfl, report s ch position h⟩
  | appName ch text => exact ⟨_, rfl, s.rxBytes_keeps P byte _ h⟩
  | volume ch value => exact ⟨_, rfl, s.rxBytes_keeps P byte _ h⟩
  | icon ch pixels => exact ⟨_, rfl, s.rxBytes_keeps P byte _ h⟩
  | unrecognised b => exact ⟨_, rfl, s.rxBytes_keeps P byte _ h⟩
  | tick inputs => exact ⟨_, rfl, State.tickAll_keeps _ P tick 0 inputs (s.sampleAll_keeps P sample 0 inputs h)⟩
  | rxFrame bytes => exact ⟨_, rfl, s.rxBytes_keeps P byte _ h⟩
  | icoStream ch bytes => exact ⟨_, rfl, s.addBytes_keeps P ch (fun t b => add t ch b) bytes h⟩
  | _ => exact driver s _ rfl h

end Sys2Proof.Machine
end

