-- ==== Sys2Proof/Laws/Runs.lean ====
section
/-! SUPPORT. Runs: how they compose, and that a pseudo-operation's fold over the state is a run of its members. -/

namespace Sys2Proof.Machine

/-- One step of a run of the machine. -/
theorem core_run_succ (M : Host.Core) (k : Nat) (s t : M.State) (h : M.step s = .next t) :
    Host.Core.run M (k + 1) s = Host.Core.run M k t := by
  rw [Host.Core.run, h]

/-- A run of operations that starts with one that answers a next state. -/
theorem runOps_cons (i : Instr) (rest : List Instr) (s t : State) (h : exec i s = .next t) :
    runOps (i :: rest) s = runOps rest t := by
  simp only [runOps, h]

theorem runOps_append (xs ys : List Instr) (s t : State) (h : runOps xs s = .next t) :
    runOps (xs ++ ys) s = runOps ys t := by
  induction xs generalizing s with
  | nil => cases h; rfl
  | cons i xs ih =>
    simp only [List.cons_append, runOps] at h ⊢
    cases hi : exec i s with
    | next u => rw [hi] at h; exact ih u h
    | fault r => rw [hi] at h; cases h
    | refused r => rw [hi] at h; cases h

theorem runAt_append (xs ys : List (Time × Instr)) (s t : State) (h : runAt xs s = .next t) :
    runAt (xs ++ ys) s = runAt ys t := by
  induction xs generalizing s with
  | nil => cases h; rfl
  | cons x xs ih =>
    obtain ⟨now, i⟩ := x
    simp only [List.cons_append, runAt] at h ⊢
    cases hi : exec i (s.atTime now) with
    | next u => rw [hi] at h; exact ih u h
    | fault r => rw [hi] at h; cases h
    | refused r => rw [hi] at h; cases h

theorem runOps_addBytes (s : State) (ch : Byte) (bytes : List Byte) :
    runOps (bytes.map (.icoAddByte ch)) s = .next (bytes.foldl (fun s b => s.addByteOp ch b) s) := by
  induction bytes generalizing s with
  | nil => rfl
  | cons b rest ih => exact ih _

theorem runOps_rxBytes (s : State) (bytes : List Byte) :
    runOps (bytes.map .rxByte) s = .next (s.rxBytes bytes) := by
  induction bytes generalizing s with
  | nil => rfl
  | cons b rest ih => exact ih _

/-- ICO.ADDBYTE on a channel that exists. -/
theorem State.addByteOp_of_exists (s : State) (ch b : Byte) (h : channelExists s.params ch) :
    s.addByteOp ch b = (s.icoAddByte ch b).ret 0 := s.withChannel_of_exists ch _ h

end Sys2Proof.Machine
end

