-- ==== Sys2Proof/Tests/Slice0.lean ====
section
/-! SUPPORT. The model's own tests. Expected results are those of 95_test_vectors.md, or follow by hand from the rule
named; then, for every statement with hypotheses, states and operands that meet them. -/

namespace Sys2Proof.Tests

set_option Elab.async false

open Sys2Proof Sys2Proof.Machine

/-- The preamble of 95_test_vectors.md: reset, NCH = 4, identifier A0 to AF presented. -/
def start : State :=
  { State.reset with ports := { now := 0, uuid := 0xAFAEADACABAAA9A8A7A6A5A4A3A2A1A0, uuidValid := true } }

/-- The next state, if the operation has one. -/
def after (i : Instr) (s : State) : Option State :=
  match exec i s with
  | .next t => some t
  | _ => none

/-- The next state of a step, if it has one. -/
def stepped (s : State) : Option State :=
  match step s with
  | .next t => some t
  | _ => none

/-! ## WellFormed: an ill-formed term for each check -/

theorem test_wf_appName_text_length :
    (Instr.appName 0 (List.replicate 63 0)).wf Params.default = false ∧
    (Instr.appName 0 (List.replicate 64 0)).wf Params.default = true := by decide

theorem test_wf_icon_pixel_count :
    (Instr.icon 0 [0, 0]).wf Params.default = false ∧
    (Instr.icon 0 (List.replicate 8192 0)).wf Params.default = true := by decide +kernel

theorem test_wf_unrecognised_is_not_a_command :
    (Instr.unrecognised 0x21).wf Params.default = false ∧ (Instr.unrecognised 0x10).wf Params.default = true := by
  decide

theorem test_wf_tick_one_group_per_channel :
    (Instr.tick [⟨0, true, true, true⟩]).wf Params.default = false ∧
    (Instr.tick (List.replicate 4 ⟨0, true, true, true⟩)).wf Params.default = true := by decide

theorem test_wf_rxFrame_not_empty :
    (Instr.rxFrame []).wf Params.default = false ∧ (Instr.rxFrame [0x21]).wf Params.default = true := by decide

theorem test_wf_icoStream_not_empty :
    (Instr.icoStream 0 []).wf Params.default = false ∧ (Instr.icoStream 0 [0x12]).wf Params.default = true := by decide

/-- R6: parameters that no block may have. -/
theorem test_wf_params :
    Params.default.wf ∧ ¬ { Params.default with nch := 0 }.wf ∧ ¬ { Params.default with nch := 257 }.wf ∧
    ¬ { Params.default with cmdHsResp := 0x10 }.wf ∧ ¬ { Params.default with cmdIcon := 0x21 }.wf := by decide

/-! ## Decode: the words of 95_test_vectors.md section 3, and the command bytes of R92 -/

theorem test_decode_system :
    decodeTableWord 32 0x00000000 = some .nop ∧ decodeTableWord 32 0xD0000000 = some .statRead ∧
    decodeTableWord 32 0xE0000000 = some .statClear ∧ decodeTableWord 32 0xF0000000 = some .reservedF := by decide

theorem test_decode_wire_operations :
    decodeTableWord 32 0x10000001 = some (.rxByte 0x01) ∧ decodeTableWord 32 0x20000000 = some .rxRearm := by decide

theorem test_decode_icon :
    decodeTableWord 32 0x30200000 = some (.icoStart 2) ∧ decodeTableWord 32 0x40000012 = some (.icoAddByte 0 0x12) ∧
    decodeTableWord 32 0x50200000 = some (.icoIsReady 2) ∧ decodeTableWord 32 0x60000001 = some (.icoSetPh 0 true) ∧
    decodeTableWord 32 0x70001008 = some (.icoDraw 0 8 4) ∧ decodeTableWord 32 0x80200102 = some (.icoRdPix 2 258) := by
  decide

theorem test_decode_fader :
    decodeTableWord 32 0x90000200 = some (.fadSample 0 512) ∧
    decodeTableWord 32 0x903003FF = some (.fadSample 3 1023) := by decide

theorem test_decode_encoder :
    decodeTableWord 32 0xA0000003 = some (.encTick 0 true true false) ∧
    decodeTableWord 32 0xA0100006 = some (.encTick 1 false true true) ∧
    decodeTableWord 32 0xB0100000 = some (.encGetDelta 1) ∧ decodeTableWord 32 0xC0000000 = some (.encWasPressed 0) := by
  decide

/-- R108: bits no operand owns are ignored (vector S9 for NOP). -/
theorem test_decode_ignores_unused_bits :
    decodeTableWord 32 0x0FFFFFFF = some .nop ∧ decodeTableWord 32 0x1FFFFF4B = some (.rxByte 0x4B) ∧
    decodeTableWord 32 0x802FF102 = some (.icoRdPix 2 258) ∧ decodeTableWord 32 0x6000FFFE = some (.icoSetPh 0 false) := by
  decide

theorem test_decode_wire_commands :
    decodeTableWord 8 0x01 = some .hsReq ∧ decodeTableWord 8 0x02 = some .hsResp ∧
    decodeTableWord 8 0x10 = some (.faderUpd 0 0) ∧ decodeTableWord 8 0x21 = some (.volume 0 0) ∧
    decodeTableWord 8 0x20 = some (.appName 0 (List.replicate 64 0)) ∧
    decodeTableWord 8 0x7F = some (.unrecognised 0x7F) := by decide +kernel

theorem test_decode_icon_frame :
    (match decodeTableWord 8 0x22 with
      | some (.icon ch pixels) => ch == 0 && pixels.length == 8192
      | _ => false) = true := by decide +kernel

/-- A burst that is not exactly one frame is the sequence of its bytes (log entry 9); a pseudo-operation's members
come from their own words (R110). -/
theorem test_decode_pseudo_operations :
    (decode Params.default (.burst [0x21, 0x02])).toOption = some (.rxFrame [0x21, 0x02]) ∧
    encode Params.default (.icoStream 0 [0x12, 0x34]) = [.word 0x40000012, .word 0x40000034] ∧
    encode Params.default (.tick [⟨512, true, true, false⟩]) = [.word 0x90000200, .word 0xA0000003] := by decide

/-- Requests that stand for no operation are refused by name. -/
theorem test_decode_refusals :
    decodeSend Params.default [0x33] = .error (.unknownOutbound 0x33) ∧
    decodeSend Params.default [0x10, 0] = .error (.outboundOperands 0x10 1) ∧
    decodeSend Params.default [0x02, 0] = .error (.outboundOperands 0x02 1) ∧
    decodeBurst Params.default [] = .error .emptyBurst ∧ decodeSend Params.default [] = .error .emptySend ∧
    decodeTableWord 0 0 = none := ⟨rfl, rfl, rfl, rfl, rfl, rfl⟩

/-- The encoder writes the words of section 3. -/
theorem test_encode_words :
    encode Params.default (.icoDraw 0 8 4) = [.word 0x70001008] ∧
    encode Params.default (.encTick 1 true false true) = [.word 0xA0100005] ∧
    encode Params.default (.fadSample 3 1023) = [.word 0x903003FF] ∧
    encode Params.default (.volume 2 0x4B) = [.burst [0x21, 0x02, 0x4B]] ∧
    encode Params.default (.faderUpd 0 127) = [.send [0x10, 0x00, 0x7F]] := by decide

/-! ## The step -/

/-- The word placed is the first to run after reset: vector W14. -/
theorem test_step_runs_the_word_placed :
    (stepped (State.reset.withFetchWord 32 0x10000021)).map (fun t => (t.rx.active, t.rx.cmd, t.rx.idx, t.trace)) =
      some (true, 0x21, 0, []) := by decide +kernel

/-- A trace line's levels hold from that line on (R109): `@20 FAD.SAMPLE ch=0, raw=512`, vector F3. -/
theorem test_step_samples_the_ports :
    (stepped { State.reset with trace := [⟨some 20, none, none, .word 0x90000200⟩] }).map
      (fun t => (t.ports.now, t.tx, (t.fadAt 0).filt)) = some (20, [0x10, 0x00, 0x7F], 512) := by decide +kernel

/-! ## System -/

/-- Vectors S1, S3. -/
theorem test_nop_and_reserved :
    (after .nop start).map (fun t => (t.res, t.status)) = some (0, 0) ∧
    (after .reservedF start).map (fun t => (t.res, t.status)) = some (0, 0b1000) := by decide +kernel

/-- Vector S6 for STAT.READ and STAT.CLEAR: bit 8 is live and not cleared. -/
theorem test_stat_read_and_clear :
    (after .statRead { start with rx := { start.rx with active := true }, status := 0b0011 }).map (·.res) = some 0x103 ∧
    (after .statClear { start with rx := { start.rx with active := true }, status := 0b0011 }).map
      (fun t => (t.status, t.rx.active)) = some (0, true) := by decide +kernel

/-! ## WireCodec -/

/-- The announcement of vector W1. -/
def announced : List Byte :=
  [0x02, 0x46, 0x41, 0x44, 0x45, 0x52, 0x46, 0x4C, 0x4F, 0x57, 0x01, 0xA0, 0xA1, 0xA2, 0xA3, 0xA4, 0xA5, 0xA6, 0xA7, 0xA8,
    0xA9, 0xAA, 0xAB, 0xAC, 0xAD, 0xAE, 0xAF, 0x01, 0x00]

/-- Vectors W1, W2. -/
theorem test_handshake_request :
    (after .hsReq start).map (fun t => (t.tx, t.status)) = some (announced, 0) ∧
    (after .hsReq State.reset).map (fun t => (t.tx, t.status)) = some ([], 0b0100) := by decide +kernel

theorem test_handshake_response : (after .hsResp start).map (·.tx) = some announced := by decide +kernel

/-- Vectors W11, W14, and R145 for the first channel out of range (W8). -/
theorem test_rxByte :
    (after (.rxByte 0x10) start).map (fun t => (t.status, t.rx.active, t.tx)) = some (0b0001, false, []) ∧
    (after (.rxByte 0x04) { start with rx := { start.rx with active := true, cmd := 0x21 } }).map
      (fun t => (t.status, t.rx.active, t.rx.idx)) = some (0b0010, true, 1) := by decide +kernel

/-- The end of vector 4.4: RX.REARM keeps the assembler, the command and the count. -/
theorem test_rearm :
    (after .rxRearm { start with rx := ⟨true, 0x22, 7, 0, start.rx.buf⟩ }).map (fun t => (t.rx.active, t.rx.idx)) =
      some (false, 7) := by decide +kernel

/-- Vectors W5, W7. -/
theorem test_volume :
    (after (.volume 1 0xC8) start).map (·.ev) = some [.volume 1 100] ∧
    (after (.volume 7 0x32) start).map (fun t => (t.ev, t.status, t.rx.active)) = some ([], 0b0010, false) := by
  decide +kernel

/-- Vectors W17, W18. -/
theorem test_appName :
    (after (.appName 3 ([0x53, 0x70, 0x6F, 0x74, 0x69, 0x66, 0x79] ++ List.replicate 57 0)) start).map (·.ev) =
      some [.appName 3 ([0x53, 0x70, 0x6F, 0x74, 0x69, 0x66, 0x79] ++ List.replicate 57 0)] ∧
    (after (.appName 9 (List.replicate 64 0x41)) start).map (fun t => (t.ev, t.status, t.rx.active)) =
      some ([], 0b0010, false) := by decide +kernel

/-- Section 4.5 after pixel 0, and the end of vector W19: the 8194th byte of a frame for channel 5 of 4. -/
theorem test_icon_frame :
    (after (.icon 2 [0x12, 0x34]) start).map (fun t => (Memory.pixelAt t.mem 2 0, (t.icoAt 2).cursor, t.rx.idx)) =
      some (some 0x1234, 1, 3) ∧
    (after (.rxByte 0xFF) { start with rx := ⟨true, 0x22, 8192, 5, start.rx.buf⟩ }).map
      (fun t => (t.mem, t.rx.active)) = some ([], false) := by decide +kernel

/-- Vectors W10, W4 with W15: the 0x01 inside a volume frame is the volume. -/
theorem test_unrecognised_and_frame :
    (after (.unrecognised 0x7F) start).map (fun t => (t.status, t.rx.active)) = some (0b0001, false) ∧
    (after (.rxFrame [0x21, 0x01, 0x01]) start).map (fun t => (t.ev, t.tx)) = some ([.volume 1 1], []) := by
  decide +kernel

/-- R140's example, and a channel the block does not have (log entry 10). -/
theorem test_faderUpd :
    (after (.faderUpd 0 127) start).map (·.tx) = some [0x10, 0x00, 0x7F] ∧
    (after (.faderUpd 4 127) start).map (fun t => (t.tx, t.status)) = some ([], 0b0010) := by decide +kernel

/-! ## IconAssembler -/

/-- A state whose assembler of channel `c` holds `r`. -/
def withIco (c : Byte) (r : IcoRec) : State := start.setIco c r

/-- Vector I5's start from I3. -/
theorem test_icoStart :
    (after (.icoStart 0) (withIco 0 ⟨false, true, 2, .awaitingLow, 0xF8⟩)).map (fun t => t.icoAt 0) =
      some ⟨false, false, 0, .awaitingHigh, 0xF8⟩ := by decide +kernel

/-- Vector I4 and the last pixel of vector I8. -/
theorem test_icoAddByte :
    (after (.icoAddByte 0 0x00) (withIco 0 ⟨false, false, 2, .awaitingLow, 0xF8⟩)).map
      (fun t => (Memory.pixelAt t.mem 0 2, (t.icoAt 0).cursor)) = some (some 0xF800, 3) ∧
    (after (.icoAddByte 2 0xFF) (withIco 2 ⟨false, false, 4095, .awaitingLow, 0x0F⟩)).map
      (fun t => (Memory.pixelAt t.mem 2 4095, (t.icoAt 2).cursor, (t.icoAt 2).ready)) =
      some (some 0x0FFF, 4096, true) := by decide +kernel

/-- Vectors I12, I14. -/
theorem test_ready_and_placeholder :
    (after (.icoSetPh 0 true) start).map (fun t => ((t.icoAt 0).placeholder, (t.icoAt 0).ready)) = some (true, false) ∧
    (after (.icoIsReady 0) (withIco 0 ⟨false, true, 0, .awaitingHigh, 0⟩)).map (·.res) = some 1 ∧
    (after (.icoIsReady 0) start).map (·.res) = some 0 := by decide +kernel

/-- Vectors I15, I16. -/
theorem test_icoDraw :
    (after (.icoDraw 0 8 4) start).map (·.ev) = some [] ∧
    (after (.icoDraw 0 8 4) (withIco 0 ⟨false, true, 0, .awaitingHigh, 0⟩)).map (·.ev) = some [.drawBitmap 0 8 4] := by
  decide +kernel

/-- Vector I10's read: pixel 258 of channel 2. -/
theorem test_icoRdPix :
    (after (.icoRdPix 2 258) (start.writePixel 2 258 0x01 0x02)).map (·.res) = some 0x00000102 := by decide +kernel

/-- Vectors I7, I17. -/
theorem test_icoStream :
    (after (.icoStream 0 [0x00, 0x80]) start).map (fun t => Memory.pixelAt t.mem 0 0) = some (some 0x0080) ∧
    (after (.icoStream 4 [0x55]) start).map (fun t => (t.status, t.mem)) = some (0b0010, []) := by decide +kernel

/-! ## FaderSampler -/

/-- A state at time `now` whose fader `c` holds `r`. -/
def withFad (now : Time) (c : Byte) (r : FadRec) : State := (start.setFad c r).atTime now

/-- Vectors F5, F6. -/
theorem test_fadSample :
    (after (.fadSample 0 0) (withFad 40 0 ⟨true, 512, true, 127, 20⟩)).map (fun t => (t.tx, (t.fadAt 0).filt)) =
      some ([0x10, 0x00, 0x5F], 384) ∧
    (after (.fadSample 0 512) (withFad 3 0 ⟨false, 0, false, 0, 0xFFFFFFF0⟩)).map (fun t => (t.tx, (t.fadAt 0).valid)) =
      some ([], false) := by decide +kernel

/-- Rows of the filter and of the quantiser of 95_test_vectors.md section 2.3. -/
theorem test_filter_and_quantiser :
    filt ⟨true, 297, true, 0, 0⟩ 300 = 297 ∧ filt ⟨true, 301, true, 0, 0⟩ 300 = 300 ∧ filt ⟨true, 0, true, 0, 0⟩ 1023 = 255 ∧
    quant 4 = 0 ∧ quant 5 = 1 ∧ quant 513 = 127 ∧ quant 1018 = 253 ∧ quant 1019 = 254 ∧ quant 1023 = 255 := by decide

/-! ## EncoderDecoder -/

/-- A state at time `now` whose encoder `c` holds `r`. -/
def withEnc (now : Time) (c : Byte) (r : EncRec) : State := (start.setEnc c r).atTime now

/-- Rows of section 2.4: both directions of a rising edge, the second across the wrap. -/
theorem test_rotation :
    (after (.encTick 1 true false true) (withEnc 1 1 ⟨10, 0, false, true, true, 0, false⟩)).map (fun t => (t.encAt 1).pos) =
      some 11 ∧
    (after (.encTick 1 true true true) (withEnc 1 1 ⟨0, 0, false, true, true, 0, false⟩)).map (fun t => (t.encAt 1).pos) =
      some 0xFFFFFFFF := by decide +kernel

/-- Vectors B1 and B2: 50 units do not accept the level, 51 do. -/
theorem test_debounce :
    (after (.encTick 0 true true false) (withEnc 150 0 ⟨0, 0, true, true, false, 100, false⟩)).map
      (fun t => ((t.encAt 0).btnState, (t.encAt 0).btnPressed)) = some (true, false) ∧
    (after (.encTick 0 true true false) (withEnc 151 0 ⟨0, 0, true, true, false, 100, false⟩)).map
      (fun t => ((t.encAt 0).btnState, (t.encAt 0).btnPressed)) = some (false, true) := by decide +kernel

/-- The delta rows of section 2.4, and vector S7. -/
theorem test_getDelta :
    (after (.encGetDelta 0) (withEnc 0 0 ⟨2, 5, true, true, true, 0, false⟩)).map (fun t => (t.res, (t.encAt 0).last)) =
      some (0xFFFFFFFD, 2) ∧
    (after (.encGetDelta 4) start).map (fun t => (t.res, t.status)) = some (0, 0b0010) := by decide +kernel

/-- Vector B3. -/
theorem test_wasPressed :
    (after (.encWasPressed 0) (withEnc 0 0 ⟨0, 0, true, false, false, 100, true⟩)).map
      (fun t => (t.res, (t.encAt 0).btnPressed, (t.encAt 0).btnState)) = some (1, false, false) := by decide +kernel

/-- R254: one tick of all four channels at 20; the messages ascend, the encoders move after. -/
theorem test_tick :
    (after (.tick [⟨0, false, true, true⟩, ⟨1023, false, true, true⟩, ⟨512, true, true, false⟩, ⟨300, true, true, true⟩])
      (start.atTime 20)).map (fun t => (t.tx, (t.encAt 1).clkPrev, (t.encAt 2).btnT)) =
      some ([0x10, 0, 0, 0x10, 1, 0xFF, 0x10, 2, 0x7F, 0x10, 3, 74], false, 20) := by decide +kernel

/-! ## Invariants at concrete states -/

theorem reset_icoAt (c : Byte) : State.reset.icoAt c = ⟨false, false, 0, .awaitingHigh, 0⟩ :=
  State.icoAt_resetWith Params.default c

theorem reset_fadAt (c : Byte) : State.reset.fadAt c = ⟨false, 0, false, 0, 0⟩ := State.fadAt_resetWith Params.default c

/-- The state right after reset meets the invariant of the model. -/
theorem reset_has_inv : State.reset.Inv := by
  have hmem : State.reset.mem = [] := rfl
  refine ⟨?_, ?_, ?_, ?_, ?_, ?_, ?_, ?_, ?_⟩
  · exact (by decide : Params.default.wf)
  · rw [hmem]; exact List.Pairwise.nil
  · rw [hmem]; intro cell h; exact absurd h List.not_mem_nil
  · rw [hmem]; intro c i _; rw [Memory.byteAt_nil, Memory.byteAt_nil]
  · intro c; rw [reset_icoAt]; decide
  · intro c i h; rw [reset_icoAt] at h; exact absurd h (Nat.not_lt_zero i)
  · intro c; rw [reset_fadAt]; decide
  · intro h; cases h
  · exact fun c _ => ⟨State.encAt_resetWith _ c, State.fadAt_resetWith _ c, State.icoAt_resetWith _ c⟩

/-! ## Witnesses: states and operands that meet the hypotheses of each statement, clause by clause

A statement without hypotheses has none here. `exec i s = .next t` is met by the `t` the meaning gives. -/

theorem witness_ChannelOutOfRangeIsRejected :
    (Instr.icoStart 4).channelOperand = some 4 ∧ (Instr.encWasPressed 255).channelOperand = some 255 ∧
    start.params.nch ≤ (4 : Byte).toNat := by decide

/-- The clauses of ICO.ADDBYTE: out of range; awaiting the high byte; the low byte when full; the last pixel. -/
theorem witness_IcoAddByteAssemblesPairs :
    start.params.nch ≤ (4 : Byte).toNat ∧ (3 : Byte).toNat < start.params.nch ∧ (start.icoAt 3).phase = .awaitingHigh ∧
    ((withIco 3 ⟨true, false, 4096, .awaitingLow, 0⟩).icoAt 3).phase = .awaitingLow ∧
    4096 ≤ ((withIco 3 ⟨true, false, 4096, .awaitingLow, 0⟩).icoAt 3).cursor.toNat ∧
    ((withIco 3 ⟨false, false, 4095, .awaitingLow, 0⟩).icoAt 3).phase = .awaitingLow ∧
    ((withIco 3 ⟨false, false, 4095, .awaitingLow, 0⟩).icoAt 3).cursor.toNat < 4096 := by decide +kernel

/-- ICO.RDPIX: out of range; the last pixel written; the last pixel not written. -/
theorem witness_IcoRdPixReturnsThePixel :
    start.params.nch ≤ (4 : Byte).toNat ∧ (3 : Byte).toNat < start.params.nch ∧
    Memory.pixelAt (start.writePixel 3 4095 0x0F 0xFF).mem 3 (4095 : BitVec 12).toNat = some 0x0FFF ∧
    Memory.pixelAt start.mem 3 (4095 : BitVec 12).toNat = none := by decide +kernel

theorem witness_IconCompletionLaw :
    (3 : Byte).toNat < start.params.nch ∧ 0 < min ([0x12, 0x34] : List Byte).length 4096 := by decide

theorem witness_BytesAfterCompletionAreIgnored :
    (3 : Byte).toNat < (withIco 3 ⟨true, false, 4096, .awaitingHigh, 0⟩).params.nch ∧
    ((withIco 3 ⟨true, false, 4096, .awaitingHigh, 0⟩).icoAt 3).cursor.toNat = 4096 := by decide +kernel

/-- A form that stores nothing, ICO.ADDBYTE storing the last pixel, and RX.BYTE storing the first. -/
theorem witness_MemoryFrameOfDriverOperations :
    start.params.wf ∧ (Instr.icoAddByte 3 0).isLocal = true ∧ (∃ t, exec (.icoAddByte 3 0) start = .next t) ∧
    start.storeOf (.icoAddByte 3 0) = none ∧
    (withIco 3 ⟨false, false, 4095, .awaitingLow, 0⟩).storeOf (.icoAddByte 3 0) = some (3, 4095) ∧
    { withIco 3 ⟨false, false, 0, .awaitingLow, 0⟩ with rx := ⟨true, 0x22, 2, 3, start.rx.buf⟩ }.storeOf (.rxByte 0) =
      some (3, 0) := by
  refine ⟨?_, rfl, ⟨_, rfl⟩, ?_, ?_, ?_⟩ <;> decide +kernel

/-- FAD.SAMPLE: the two premises only name values; skipped at 19, gate shut at a distance of 2, open at 3. -/
theorem witness_FadSampleFiltersQuantisesAndGates :
    ((withFad 19 0 ⟨false, 0, false, 0, 0⟩).ports.now - 0).toNat < 20 ∧
    ¬ ((withFad 20 0 ⟨false, 0, false, 0, 0⟩).ports.now - 0).toNat < 20 ∧
    ¬ 2 < ((129 : Int) - (127 : Byte).toNat).natAbs ∧ 2 < ((130 : Int) - (127 : Byte).toNat).natAbs ∧
    ((512 * 3 + 300) / 4 : Nat) = 459 ∧ (459 * 255 / 1023 : Nat) = 114 := by decide +kernel

theorem witness_FilterStaysBetweenAndStalls :
    (3 : Byte).toNat < (withFad 20 3 ⟨true, 297, true, 0, 0⟩).params.nch ∧
    ((withFad 20 3 ⟨true, 297, true, 0, 0⟩).fadAt 3).valid = true ∧
    20 ≤ ((withFad 20 3 ⟨true, 297, true, 0, 0⟩).ports.now - ((withFad 20 3 ⟨true, 297, true, 0, 0⟩).fadAt 3).t).toNat ∧
    ∃ t, exec (.fadSample 3 300) (withFad 20 3 ⟨true, 297, true, 0, 0⟩) = .next t := by
  refine ⟨?_, ?_, ?_, ⟨_, rfl⟩⟩ <;> decide +kernel

theorem witness_FaderIdleSilence :
    (3 : Byte).toNat < start.params.nch ∧ (start.fadAt 3).valid = false ∧ (start.fadAt 3).sentValid = false ∧
    20 ≤ ((20 : Time) - (start.fadAt 3).t).toNat := by decide +kernel

/-- Three taken samples from three above, and none needed from three below. -/
theorem witness_FilterConvergence :
    (3 : Byte).toNat < (withFad 0 3 ⟨true, 303, true, 0, 0⟩).params.nch ∧
    ((withFad 0 3 ⟨true, 303, true, 0, 0⟩).fadAt 3).valid = true ∧ samplesDue 0 [20, 40, 60] ∧
    ((withFad 0 3 ⟨true, 303, true, 0, 0⟩).fadAt 3).t = 0 ∧
    (300 : BitVec 10).toNat ≤ ((withFad 0 3 ⟨true, 303, true, 0, 0⟩).fadAt 3).filt.toNat ∧
    ((withFad 0 3 ⟨true, 303, true, 0, 0⟩).fadAt 3).filt.toNat - (300 : BitVec 10).toNat ≤ [20, 40, 60].length ∧
    ((withFad 0 3 ⟨true, 297, true, 0, 0⟩).fadAt 3).filt.toNat + 3 ≤ (300 : BitVec 10).toNat := by
  refine ⟨?_, ?_, ⟨?_, ?_, ?_, trivial⟩, ?_, ?_, ?_, ?_⟩ <;> decide +kernel

/-- Channel 0 as the long run of section 2.3 leaves it, exactly DEADBAND behind. -/
theorem witness_HostLagsByAtMostDeadband :
    (∀ c, (start.setFad 0 ⟨true, 300, true, 76, 400⟩).lagBounded c) ∧
    ∃ t, exec (.fadSample 0 300) (start.setFad 0 ⟨true, 300, true, 76, 400⟩) = .next t := by
  refine ⟨fun c => ?_, ⟨_, rfl⟩⟩
  by_cases h : c = 0
  · subst h; exact fun _ => by rw [State.fadAt_setFad_same]; decide +kernel
  · have e : start.fadAt c = ⟨false, 0, false, 0, 0⟩ := State.fadAt_resetWith Params.default c
    intro hv; rw [State.fadAt_setFad_ne _ _ _ _ h, e] at hv; cases hv

/-- ENC.TICK: 50 units since the change, not accepted; 51, accepted. -/
theorem witness_EncTickDecodesAndDebounces :
    (false = true ↔ 50 < ((150 : Time) - 100).toNat ∧ false ≠ true) ∧
    (true = true ↔ 50 < ((151 : Time) - 100).toNat ∧ false ≠ true) := by decide

theorem witness_GetDeltaIsOneShot : ∃ t, exec (.encGetDelta 3) start = .next t := ⟨_, rfl⟩

/-- The four edges of section 4.1, and the least delta of all. -/
theorem witness_GetDeltaReturnsNetSteps :
    (1 : Byte).toNat < start.params.nch ∧
    (-1 : Int) = netSteps true [(false, true), (true, false), (false, false), (true, true), (false, true), (true, true)] ∧
    -2 ^ 31 ≤ (-1 : Int) ∧ (-1 : Int) < 2 ^ 31 := by decide

theorem witness_WasPressedIsOneShot : ∃ t, exec (.encWasPressed 3) start = .next t := ⟨_, rfl⟩

theorem witness_ShortLevelChangeIsAbsorbed :
    (3 : Byte).toNat < start.params.nch ∧ (start.encAt 3).btnRawPrev = (start.encAt 3).btnState ∧
    ∀ x ∈ [(100, true, true), (150, true, true)], 100 ≤ x.1 ∧ x.1 ≤ 100 + 50 := by decide +kernel

theorem witness_LongPressSetsLatchOnce :
    (3 : Byte).toNat < start.params.nch ∧ (start.encAt 3).btnRawPrev = (!start.params.pressedLevel) ∧
    (start.encAt 3).btnState = (!start.params.pressedLevel) ∧
    (∀ x ∈ [(100, true, true), (150, true, true)], 100 ≤ x.1 ∧ x.1 ≤ 100 + 50) ∧ 100 + 50 < 151 ∧
    151 < 100 + 2 ^ 32 := by decide +kernel

/-- The parser idle, with the identifier and without; and a byte of each kind. -/
theorem witness_RxByteIdleDispatches :
    start.rx.active = false ∧ start.ports.uuidValid = true ∧ State.reset.ports.uuidValid = false ∧
    start.params.framed 0x22 ∧ ¬ start.params.recognised 0x02 := by decide +kernel

/-- A state in a frame. -/
def inFrame (cmd : Byte) (idx : BitVec 14) (ch : Byte) : State :=
  { start with rx := ⟨true, cmd, idx, ch, start.rx.buf⟩ }

theorem witness_RxByteChannelField :
    start.params.wf ∧ (inFrame 0x22 0 0).rx.ok start.params ∧ (inFrame 0x21 0 0).rx.ok start.params ∧
    (inFrame 0x22 0 0).rx.active = true ∧ (inFrame 0x22 0 0).rx.idx = 0 ∧ start.params.nch ≤ (4 : Byte).toNat ∧
    ¬ start.params.nch ≤ (3 : Byte).toNat := by decide +kernel

/-- The first, the last but one and the last text byte, and the volume byte. -/
theorem witness_RxByteShortFrameFields :
    start.params.wf ∧ (inFrame 0x20 1 0).rx.cmd = start.params.cmdAppName ∧
    (inFrame 0x20 1 0).rx.idx.toNat = (0 : Fin 64).val + 1 ∧ (inFrame 0x20 63 0).rx.idx.toNat = (62 : Fin 64).val + 1 ∧
    (inFrame 0x20 64 0).rx.idx.toNat = (63 : Fin 64).val + 1 ∧ (inFrame 0x21 1 4).rx.cmd = start.params.cmdVolume ∧
    (inFrame 0x21 1 4).rx.idx = 1 := by decide +kernel

/-- The first and the last pixel byte. -/
theorem witness_RxBytePixelField :
    start.params.wf ∧ (inFrame 0x22 1 3).rx.active = true ∧ (inFrame 0x22 1 3).rx.cmd = start.params.cmdIcon ∧
    1 ≤ (inFrame 0x22 1 3).rx.idx.toNat ∧ (inFrame 0x22 8192 4).rx.idx.toNat ≤ 8192 := by decide +kernel

theorem witness_HandshakeRequestIsAnswered :
    start.rx.active = false ∧ State.reset.rx.active = false ∧ (inFrame 0x21 1 0).rx.active = true := by decide +kernel

theorem witness_frames_from_idle :
    start.params.wf ∧ start.rx.active = false ∧ (List.replicate 64 (0x41 : Byte)).length = 64 ∧
    (List.replicate 8192 (0x41 : Byte)).length = 8192 ∧ (3 : Byte).toNat < start.params.nch ∧
    start.params.nch ≤ (4 : Byte).toNat := by decide +kernel

theorem witness_UnrecognisedByteIsDropped :
    start.rx.active = false ∧ ¬ start.params.recognised 0x10 ∧ (inFrame 0x20 1 0).rx.active = true := by decide +kernel

theorem witness_WireCommandsAreTheirBytes : Instr.hsReq.isFrame = true ∧ (Instr.volume 255 255).isFrame = true := by decide

theorem witness_PayloadIsNotExaminedForCommands :
    (inFrame 0x21 1 0).rx.active = true ∧ ∃ t, exec (.rxByte 0x01) (inFrame 0x21 1 0) = .next t := ⟨rfl, _, rfl⟩

theorem witness_WholeFramesKeepFraming :
    start.params.wf ∧ start.rx.active = false ∧ start.ports.uuidValid = true ∧
    ∀ i ∈ [Instr.hsReq, .volume 9 200], i.isFrame = true ∧ i.wf start.params = true := by decide +kernel

theorem witness_HostCannotReachEncodersOrFaders :
    (Instr.rxFrame [0x01]).feedsParser = true ∧ ∃ t, exec (.rxFrame [0x01]) start = .next t := ⟨rfl, _, rfl⟩

theorem witness_TickMessagesAscend :
    start.params.wf ∧ (Instr.tick (List.replicate 4 ⟨512, true, true, true⟩)).wf start.params = true ∧
    ∃ t, exec (.tick (List.replicate 4 ⟨512, true, true, true⟩)) (start.atTime 20) = .next t := by
  refine ⟨?_, ?_, ⟨_, rfl⟩⟩ <;> decide +kernel

theorem witness_DecodeReadsBackEveryEncoding :
    Params.default.wf ∧ (Instr.volume 255 255).wf Params.default = true ∧
    (Instr.unrecognised 0x10).wf Params.default = true := by decide

/-- A line that decodes; the empty trace; a line that stands for nothing. -/
theorem witness_StepRunsTheDecodedOperation :
    (State.reset.withFetchWord 32 0x10000021).trace = [Stimulus.ofRequest (.word 0x10000021)] ∧
    decode Params.default (.word 0x10000021) = .ok (.rxByte 0x21) ∧ State.reset.trace = [] ∧
    decode Params.default (.burst []) = .error .emptyBurst := ⟨rfl, rfl, rfl, rfl⟩

theorem witness_IssuingAnEncodingRunsTheOperation :
    start.params.wf ∧ (Instr.icoStream 0 [0x12, 0x34]).wf start.params = true := by decide +kernel

theorem witness_EveryStepKeepsInv : State.reset.Inv ∧ ∃ t, step State.reset = .next t := ⟨reset_has_inv, _, rfl⟩

theorem witness_ResetHasInv : Params.default.wf ∧ { Params.default with nch := 256 }.wf ∧ { Params.default with nch := 1 }.wf := by
  decide

/-- Two states that differ in a holding register nothing reads. -/
theorem witness_UnspecifiedValuesAreNeverObserved :
    State.reset.params.wf ∧ State.reset.rx.ok State.reset.params ∧ (∃ s', step State.reset = .next s') ∧
    State.reset.alike (State.reset.setIco 0 ⟨false, false, 0, .awaitingHigh, 0xF8⟩) := by
  refine ⟨(by decide : Params.default.wf), (fun h => by cases h), ⟨_, rfl⟩, rfl, rfl,
    fun _ => ⟨rfl, fun _ => rfl, rfl, fun _ => rfl, rfl⟩, fun c => ?_, ⟨rfl, (fun h => by cases h)⟩,
    rfl, rfl, rfl, rfl, rfl, rfl, rfl, rfl⟩
  by_cases h : c = 0
  · subst h
    rw [State.icoAt_setIco_same, reset_icoAt]
    exact ⟨rfl, rfl, rfl, rfl, fun h => by cases h⟩
  · rw [State.icoAt_setIco_ne _ _ _ _ h]
    exact ⟨rfl, rfl, rfl, rfl, fun _ => rfl⟩

theorem witness_ChannelsAreIsolated :
    (Instr.icoAddByte 3 0).channelOperand = some 3 ∧ (2 : Byte) ≠ 3 ∧ ∃ t, exec (.icoAddByte 3 0) start = .next t :=
  ⟨rfl, by decide, _, rfl⟩

/-- Each flag of R50 set by an operation and cleared by one. -/
theorem witness_FlagsChangeOnlyAsTabulated :
    (after (.encWasPressed 0) (withEnc 0 0 ⟨0, 0, true, false, false, 100, true⟩)).map (fun t => (t.encAt 0).btnPressed) =
      some false ∧
    (after (.encTick 0 true true false) (withEnc 151 0 ⟨0, 0, true, true, false, 100, false⟩)).map
      (fun t => (t.encAt 0).btnPressed) = some true ∧
    (after (.icoStart 0) (withIco 0 ⟨true, true, 4096, .awaitingHigh, 0⟩)).map
      (fun t => ((t.icoAt 0).ready, (t.icoAt 0).placeholder)) = some (false, false) ∧
    (after (.icoAddByte 0 0) (withIco 0 ⟨false, false, 4095, .awaitingLow, 0⟩)).map (fun t => (t.icoAt 0).ready) =
      some true ∧
    (after (.icoSetPh 0 true) start).map (fun t => (t.icoAt 0).placeholder) = some true ∧
    (after (.fadSample 0 512) (start.atTime 20)).map (fun t => ((t.fadAt 0).valid, (t.fadAt 0).sentValid)) =
      some (true, true) ∧
    (after .statClear { start with status := 0b1111 }).map (·.status) = some 0 ∧
    (after (.rxByte 0x7F) start).map (·.status.getLsbD 0) = some true ∧
    (after (.encGetDelta 4) start).map (·.status.getLsbD 1) = some true ∧
    (after (.faderUpd 4 0) start).map (·.status.getLsbD 1) = some true ∧
    (after (.rxByte 0x01) State.reset).map (·.status.getLsbD 2) = some true ∧
    (after .hsResp State.reset).map (·.status.getLsbD 2) = some true ∧
    (after .reservedF start).map (·.status.getLsbD 3) = some true := by decide +kernel

/-- Each condition met by an operation of the driver; and one that meets none. -/
theorem witness_AtMostOneConditionPerOperation :
    Instr.reservedF.isLocal = true ∧ Instr.reservedF ≠ .statClear ∧
    (after (.rxByte 0x7F) start).map (·.status) = some 0b0001 ∧ (after (.icoStart 4) start).map (·.status) = some 0b0010 ∧
    (after (.rxByte 0x01) State.reset).map (·.status) = some 0b0100 ∧ (after .reservedF start).map (·.status) = some 0b1000 ∧
    (after .nop start).map (·.status) = some 0 := by decide +kernel

/-- A message of 29 bytes, one of 3; an event of each kind. -/
theorem witness_streams_grow :
    (after (.rxByte 0x01) start).map (·.tx.length) = some 29 ∧
    (after (.fadSample 0 512) (start.atTime 20)).map (·.tx.length) = some 3 ∧
    (after (.rxByte 0xFF) (inFrame 0x20 64 3)).map (·.ev.length) = some 1 ∧
    (after (.rxByte 0xFF) (inFrame 0x21 1 3)).map (·.ev) = some [.volume 3 100] ∧
    (after (.icoDraw 3 0 0) (withIco 3 ⟨false, true, 0, .awaitingHigh, 0⟩)).map (·.ev.length) = some 1 := by decide +kernel

theorem witness_IdempotentOperations :
    (∃ t, exec (.icoSetPh 3 true) start = .next t) ∧ (∃ t, exec (.icoIsReady 3) start = .next t) ∧
    (3 : Byte).toNat < start.params.nch ∧
    (Memory.pixelAt (start.writePixel 3 4095 0 0).mem 3 (4095 : BitVec 12).toNat).isSome := by
  refine ⟨⟨_, rfl⟩, ⟨_, rfl⟩, ?_, ?_⟩ <;> decide +kernel

end Sys2Proof.Tests
end

section
/-! What no operation writes: the parameters, the input ports and the driver's trace (R14, R44, R109). -/

namespace Sys2Proof.Machine

/-- The second state has the parameters, the port levels and the trace of the first: all that a state holds and that
is given to the block from outside. -/
structure State.SameInputs (s t : State) : Prop where
  params : t.params = s.params
  ports : t.ports = s.ports
  trace : t.trace = s.trace

variable (s : State)

theorem State.SameInputs.trans {s t u : State} (h : s.SameInputs t) (h' : t.SameInputs u) : s.SameInputs u :=
  ⟨h'.params.trans h.params, h'.ports.trans h.ports, h'.trace.trans h.trace⟩

/-- The channel check writes no input, so an operation behind it keeps them when its body does. -/
theorem State.withChannel_sameInputs (ch : Byte) (body : State → State) (h : s.SameInputs (body s)) :
    s.SameInputs (s.withChannel ch body) :=
  s.withChannel_cases (s.SameInputs ·) ch body (fun _ => ⟨rfl, rfl, rfl⟩) (fun _ => h)

theorem State.retPixel_sameInputs (c : Byte) (i : Nat) : s.SameInputs (s.retPixel c i) := by
  obtain ⟨v, n, h⟩ := s.retPixel_frame c i
  rw [h]
  exact ⟨rfl, rfl, rfl⟩

/-- Each of the sixteen operations of the driver answers a next state and keeps the inputs. -/
theorem exec_local_sameInputs (i : Instr) (h : i.isLocal = true) : ∃ t, exec i s = .next t ∧ s.SameInputs t := by
  cases i with
  | nop => exact ⟨_, rfl, rfl, rfl, rfl⟩
  | rxByte b => exact ⟨_, rfl, s.rxByteOp_params b, s.rxByteOp_ports b, s.rxByteOp_trace b⟩
  | rxRearm => exact ⟨_, rfl, rfl, rfl, rfl⟩
  | icoStart ch => exact ⟨_, rfl, s.withChannel_sameInputs ch _ ⟨rfl, rfl, rfl⟩⟩
  | icoAddByte ch b =>
    exact ⟨_, rfl, s.withChannel_sameInputs ch _
      ⟨s.icoAddByte_params ch b, s.icoAddByte_ports ch b, s.icoAddByte_trace ch b⟩⟩
  | icoIsReady ch => exact ⟨_, rfl, s.withChannel_sameInputs ch _ ⟨rfl, rfl, rfl⟩⟩
  | icoSetPh ch v => exact ⟨_, rfl, s.withChannel_sameInputs ch _ ⟨rfl, rfl, rfl⟩⟩
  | icoDraw ch x y =>
    refine ⟨_, rfl, s.withChannel_sameInputs ch _ ?_⟩
    split
    · exact ⟨rfl, rfl, rfl⟩
    · exact ⟨rfl, rfl, rfl⟩
  | icoRdPix ch k => exact ⟨_, rfl, s.withChannel_sameInputs ch _ (s.retPixel_sameInputs ch _)⟩
  | fadSample ch raw => exact ⟨_, rfl, s.sampleOp_params ch raw, s.sampleOp_ports ch raw, s.sampleOp_trace ch raw⟩
  | encTick ch clk dt sw =>
    exact ⟨_, rfl, s.tickOp_params ch clk dt sw, s.tickOp_ports ch clk dt sw, s.tickOp_trace ch clk dt sw⟩
  | encGetDelta ch => exact ⟨_, rfl, s.withChannel_sameInputs ch _ ⟨rfl, rfl, rfl⟩⟩
  | encWasPressed ch => exact ⟨_, rfl, s.withChannel_sameInputs ch _ ⟨rfl, rfl, rfl⟩⟩
  | statRead => exact ⟨_, rfl, rfl, rfl, rfl⟩
  | statClear => exact ⟨_, rfl, rfl, rfl, rfl⟩
  | reservedF => exact ⟨_, rfl, rfl, rfl, rfl⟩
  | _ => cases h

/-- Every operation answers a next state and keeps the inputs: it is made of operations of the driver and of the two
outbound messages. -/
theorem exec_sameInputs (i : Instr) : ∃ t, exec i s = .next t ∧ s.SameInputs t := by
  refine exec_keeps (s.SameInputs ·) ?driver ?announce ?report i s ⟨rfl, rfl, rfl⟩
  case driver =>
    intro t j hj ht
    obtain ⟨u, hu, htu⟩ := exec_local_sameInputs t j hj
    exact ⟨u, hu, ht.trans htu⟩
  case announce =>
    exact fun t ht => ht.trans ⟨t.hsRespond_params, t.hsRespond_ports, t.hsRespond_trace⟩
  case report =>
    exact fun t ch _ ht => ht.trans (t.withChannel_sameInputs ch _ ⟨rfl, rfl, rfl⟩)

/-- Settles O48: every operation is made of operations that answer a next state and write no input. -/
theorem everyOperationCompletes : Obligations.EveryOperationCompletes := by
  intro i s
  obtain ⟨t, ht, hparams, hports, htrace⟩ := exec_sameInputs s i
  exact ⟨t, ht, hparams, hports, htrace⟩

end Sys2Proof.Machine
end

section
/-! No operation reads the driver's trace: with another trace it does the same and leaves that trace (R13, R72). -/

namespace Sys2Proof.Machine

/-- The state with another trace. -/
def State.withTrace (s : State) (tr : List Stimulus) : State := { s with trace := tr }

variable (s : State) (tr : List Stimulus)

@[simp] theorem State.withTrace_params : (s.withTrace tr).params = s.params := rfl
@[simp] theorem State.withTrace_trace : (s.withTrace tr).trace = tr := rfl

/-! ## The shared operations -/

theorem State.withChannel_withTrace (ch : Byte) (body : State → State)
    (h : body (s.withTrace tr) = (body s).withTrace tr) :
    (s.withTrace tr).withChannel ch body = (s.withChannel ch body).withTrace tr :=
  s.withChannel_cases (fun t => (s.withTrace tr).withChannel ch body = t.withTrace tr) ch body
    (fun hc => (s.withTrace tr).withChannel_of_absent ch body hc)
    (fun hc => ((s.withTrace tr).withChannel_of_exists ch body hc).trans h)

theorem State.retPixel_withTrace (c : Byte) (i : Nat) :
    (s.withTrace tr).retPixel c i = (s.retPixel c i).withTrace tr := by
  cases h : Memory.pixelAt s.mem c i with
  | some v => rw [s.retPixel_written c i v h]; exact (s.withTrace tr).retPixel_written c i v h
  | none => rw [s.retPixel_unwritten c i h]; exact (s.withTrace tr).retPixel_unwritten c i h

theorem State.tickOp_withTrace (c : Byte) (clk dt sw : Bool) :
    (s.withTrace tr).tickOp c clk dt sw = (s.tickOp c clk dt sw).withTrace tr :=
  s.withChannel_withTrace tr c _ rfl

theorem State.sampleOp_withTrace (c : Byte) (raw : BitVec 10) :
    (s.withTrace tr).sampleOp c raw = (s.sampleOp c raw).withTrace tr :=
  s.sampleOp_cases (fun t => (s.withTrace tr).sampleOp c raw = t.withTrace tr) c raw
    (fun hc => (s.withTrace tr).withChannel_of_absent c _ hc)
    (fun hc => (s.withTrace tr).sampleOp_skipped c raw hc)
    (fun hc => (s.withTrace tr).sampleOp_silent c raw hc)
    (fun hc => (s.withTrace tr).sampleOp_reports c raw hc)

theorem State.icoAddByte_withTrace (c b : Byte) :
    (s.withTrace tr).icoAddByte c b = (s.icoAddByte c b).withTrace tr :=
  s.icoAddByte_cases (fun t => (s.withTrace tr).icoAddByte c b = t.withTrace tr) c b
    ((s.withTrace tr).icoAddByte_high c b) ((s.withTrace tr).icoAddByte_store c b)
    ((s.withTrace tr).icoAddByte_full c b)

theorem State.addByteOp_withTrace (c b : Byte) :
    (s.withTrace tr).addByteOp c b = (s.addByteOp c b).withTrace tr :=
  s.withChannel_withTrace tr c _ (congrArg (State.ret · 0) (s.icoAddByte_withTrace tr c b))

/-! ## The parser -/

theorem State.hsRespond_withTrace : (s.withTrace tr).hsRespond = s.hsRespond.withTrace tr :=
  s.hsRespond_cases (fun t => (s.withTrace tr).hsRespond = t.withTrace tr)
    (s.withTrace tr).hsRespond_known (s.withTrace tr).hsRespond_unknown

theorem State.rxIdle_withTrace (b : Byte) : (s.withTrace tr).rxIdle b = (s.rxIdle b).withTrace tr := by
  simp only [State.rxIdle, State.hsRespond_withTrace, apply_ite (State.withTrace · tr)]
  rfl

theorem State.rxChannel_withTrace (b : Byte) : (s.withTrace tr).rxChannel b = (s.rxChannel b).withTrace tr := by
  simp only [State.rxChannel, apply_ite (State.withTrace · tr)]
  rfl

theorem State.rxData_withTrace (b : Byte) : (s.withTrace tr).rxData b = (s.rxData b).withTrace tr := by
  simp only [State.rxData, State.icoAddByte_withTrace, apply_ite (State.withTrace · tr)]
  rfl

theorem State.rxDone_withTrace : (s.withTrace tr).rxDone = s.rxDone.withTrace tr := by
  simp only [State.rxDone, apply_ite (fun t : State => t.setRx { t.rx with active := false }),
    apply_ite (State.withTrace · tr)]
  rfl

theorem State.rxAdvance_withTrace : (s.withTrace tr).rxAdvance = s.rxAdvance.withTrace tr :=
  s.rxAdvance_cases (fun t => (s.withTrace tr).rxAdvance = t.withTrace tr)
    (s.withTrace tr).rxAdvance_more
    (fun h => ((s.withTrace tr).rxAdvance_last h).trans
      (State.rxDone_withTrace (s.setRx { s.rx with idx := s.rx.idx + 1 }) tr))

theorem State.rxPayload_withTrace (b : Byte) : (s.withTrace tr).rxPayload b = (s.rxPayload b).withTrace tr := by
  simp only [State.rxPayload, State.rxChannel_withTrace, State.rxData_withTrace, ← apply_ite (State.withTrace · tr),
    ← State.rxAdvance_withTrace]
  rfl

theorem State.rxByteOp_withTrace (b : Byte) : (s.withTrace tr).rxByteOp b = (s.rxByteOp b).withTrace tr := by
  simp only [State.rxByteOp, State.rxPayload_withTrace, State.rxIdle_withTrace, ← apply_ite (State.withTrace · tr)]
  rfl

/-! ## Sequences of operations, and every operation -/

theorem State.rxBytes_withTrace (bytes : List Byte) :
    (s.withTrace tr).rxBytes bytes = (s.rxBytes bytes).withTrace tr :=
  List.foldl_hom (State.withTrace · tr) (fun t b => t.rxByteOp_withTrace tr b)

theorem State.addBytes_withTrace (ch : Byte) (bytes : List Byte) :
    bytes.foldl (fun t b => t.addByteOp ch b) (s.withTrace tr) =
      (bytes.foldl (fun t b => t.addByteOp ch b) s).withTrace tr :=
  List.foldl_hom (State.withTrace · tr) (fun t b => t.addByteOp_withTrace tr ch b)

theorem State.sampleAll_withTrace (c : Nat) (inputs : List TickInput) :
    (s.withTrace tr).sampleAll c inputs = (s.sampleAll c inputs).withTrace tr := by
  induction inputs generalizing s c with
  | nil => rfl
  | cons x rest ih => simp only [State.sampleAll, State.sampleOp_withTrace, ih]

theorem State.tickAll_withTrace (c : Nat) (inputs : List TickInput) :
    (s.withTrace tr).tickAll c inputs = (s.tickAll c inputs).withTrace tr := by
  induction inputs generalizing s c with
  | nil => rfl
  | cons x rest ih => simp only [State.tickAll, State.tickOp_withTrace, ih]

/-- The operation does not read the trace: under another trace it reaches the same next state with that trace. -/
theorem exec_withTrace (i : Instr) :
    exec i (s.withTrace tr) = mapNext (State.withTrace · tr) (exec i s) := by
  cases i with
  | nop | rxRearm | statRead | statClear | reservedF => rfl
  | rxByte b => exact congrArg _ (s.rxByteOp_withTrace tr b)
  | icoAddByte ch b => exact congrArg _ (s.addByteOp_withTrace tr ch b)
  | icoStart ch | icoIsReady ch | icoSetPh ch | encGetDelta ch | encWasPressed ch | faderUpd ch =>
    exact congrArg _ (s.withChannel_withTrace tr ch _ rfl)
  | icoDraw ch x y =>
    exact congrArg _ (s.withChannel_withTrace tr ch _
      (congrArg (State.ret · 0) (apply_ite (State.withTrace · tr) _ (s.emit _) s).symm))
  | icoRdPix ch k => exact congrArg _ (s.withChannel_withTrace tr ch _ (s.retPixel_withTrace tr ch _))
  | fadSample ch raw => exact congrArg _ (s.sampleOp_withTrace tr ch raw)
  | encTick ch clk dt sw => exact congrArg _ (s.tickOp_withTrace tr ch clk dt sw)
  | hsResp => exact congrArg (fun t : State => Host.Outcome.next (t.ret 0)) (s.hsRespond_withTrace tr)
  | hsReq | appName | volume | icon | unrecognised | rxFrame => exact congrArg _ (s.rxBytes_withTrace tr _)
  | tick inputs =>
    refine congrArg Host.Outcome.next ?_
    rw [State.sampleAll_withTrace, State.tickAll_withTrace]
  | icoStream ch bytes => exact congrArg _ (s.addBytes_withTrace tr ch bytes)

end Sys2Proof.Machine
end

section
/-! The encoder and the decoder agree (R92 to R98, R104 to R106), and a pseudo-operation is the run of its members
(R110, R254). -/

namespace Sys2Proof

/-- A member of a well-formed operation has a request of its own and is well-formed. -/
theorem Instr.isSome_encodeOne_and_wf_of_mem_expand {p : Params} {i m : Instr} (hi : i.wf p = true)
    (h : m ∈ i.expand) : (encodeOne p m).isSome ∧ m.wf p = true := by
  cases i with
  | tick inputs =>
    simp only [Instr.expand, List.mem_append, List.mem_mapIdx] at h
    rcases h with ⟨_, _, rfl⟩ | ⟨_, _, rfl⟩
    · exact ⟨rfl, rfl⟩
    · exact ⟨rfl, rfl⟩
  | rxFrame bytes =>
    obtain ⟨_, _, rfl⟩ := List.mem_map.1 h
    exact ⟨rfl, rfl⟩
  | icoStream ch bytes =>
    obtain ⟨_, _, rfl⟩ := List.mem_map.1 h
    exact ⟨rfl, rfl⟩
  | _ =>
    obtain rfl := List.mem_singleton.1 h
    exact ⟨rfl, hi⟩

/-! ## Whole inbound frames (R93, R96 to R98) -/

theorem decodeBurst_appName (p : Params) (ch : Byte) (text : List Byte) (h : text.length = Config.nameLen) :
    decodeBurst p (p.cmdAppName :: ch :: text) = .ok (.appName ch text) := by
  cases text with
  | nil => cases h
  | cons b rest => exact if_pos ⟨rfl, h⟩

theorem decodeBurst_volume {p : Params} (hp : p.wf) (ch value : Byte) :
    decodeBurst p [p.cmdVolume, ch, value] = .ok (.volume ch value) := by
  obtain ⟨-, -, -, hne, -, -⟩ := Params.commands_ne hp
  simp [decodeBurst, hne.symm]

theorem decodeBurst_icon {p : Params} (hp : p.wf) (ch : Byte) (pixels : List Byte)
    (h : pixels.length = Config.iconBytes) :
    decodeBurst p (p.cmdIcon :: ch :: pixels) = .ok (.icon ch pixels) := by
  obtain ⟨-, -, -, -, hne, hne'⟩ := Params.commands_ne hp
  cases pixels with
  | nil => cases h
  | cons b rest => simp [decodeBurst, hne.symm, hne'.symm, ← h]

theorem decodeBurst_unrecognised (p : Params) (b : Byte) (h : ¬ p.recognised b) :
    decodeBurst p [b] = .ok (.unrecognised b) := by
  obtain ⟨hreq, hframed⟩ := not_or.1 h
  simp only [decodeBurst, if_neg hreq, if_neg hframed]

/-! ## The round trip -/

/-- The request of a well-formed operation decodes to the operation. -/
theorem decode_encodeOne {p : Params} (hp : p.wf) {i : Instr} (hi : i.wf p = true) (h : (encodeOne p i).isSome) :
    (encodeOne p i).map (decode p) = some (.ok i) := by
  cases i with
  | tick | rxFrame | icoStream => cases h
  | hsReq => rfl
  | hsResp => simp [encodeOne, decode, decodeSend]
  | faderUpd ch position => simp [encodeOne, decode, decodeSend, Params.outbound_ne hp]
  | appName ch text => exact congrArg some (decodeBurst_appName p ch text (beq_iff_eq.1 hi))
  | volume ch value => exact congrArg some (decodeBurst_volume hp ch value)
  | icon ch pixels => exact congrArg some (decodeBurst_icon hp ch pixels (beq_iff_eq.1 hi))
  | unrecognised b =>
    exact congrArg some (decodeBurst_unrecognised p b (of_decide_eq_false (Bool.not_eq_true' _ ▸ hi)))
  | _ => simp [encodeOne, decode, decodeWord]

/-- The requests of a well-formed operation decode to its members, in order. -/
theorem map_decode_encode {p : Params} (hp : p.wf) {i : Instr} (hi : i.wf p = true) :
    (encode p i).map (decode p) = i.expand.map .ok := by
  rw [encode, List.map_filterMap, ← List.filterMap_eq_map]
  refine List.filterMap_congr fun m hm => ?_
  obtain ⟨henc, hwf⟩ := Instr.isSome_encodeOne_and_wf_of_mem_expand hi hm
  exact decode_encodeOne hp hwf henc

end Sys2Proof

namespace Sys2Proof.Machine

/-! ## Members run one after another -/

theorem runOps_singleton (i : Instr) (s : State) : runOps [i] s = exec i s := by
  obtain ⟨t, ht, -⟩ := exec_sameInputs s i
  rw [runOps_cons i [] s t ht, ht, runOps]

/-- The faders' half of a tick is the run of its FAD.SAMPLE, from any channel on. -/
theorem runOps_samples (s : State) (c : Nat) (inputs : List TickInput) :
    runOps (inputs.mapIdx (fun k x => .fadSample (BitVec.ofNat 8 (c + k)) x.raw)) s = .next (s.sampleAll c inputs) := by
  induction inputs generalizing s c with
  | nil => rfl
  | cons x rest ih =>
    rw [List.mapIdx_cons, Nat.add_zero, runOps_cons _ _ s _ rfl]
    simpa only [State.sampleAll, Nat.add_assoc, Nat.add_comm 1] using ih (s.sampleOp (BitVec.ofNat 8 c) x.raw) (c + 1)

/-- The encoders' half of a tick is the run of its ENC.TICK, from any channel on. -/
theorem runOps_ticks (s : State) (c : Nat) (inputs : List TickInput) :
    runOps (inputs.mapIdx (fun k x => .encTick (BitVec.ofNat 8 (c + k)) x.clk x.dt x.sw)) s =
      .next (s.tickAll c inputs) := by
  induction inputs generalizing s c with
  | nil => rfl
  | cons x rest ih =>
    rw [List.mapIdx_cons, Nat.add_zero, runOps_cons _ _ s _ rfl]
    simpa only [State.tickAll, Nat.add_assoc, Nat.add_comm 1] using
      ih (s.tickOp (BitVec.ofNat 8 c) x.clk x.dt x.sw) (c + 1)

/-- An operation is the run of its members. -/
theorem runOps_expand (i : Instr) (s : State) : runOps i.expand s = exec i s := by
  cases i with
  | tick inputs =>
    have samples := runOps_samples s 0 inputs
    have ticks := runOps_ticks (s.sampleAll 0 inputs) 0 inputs
    simp only [Nat.zero_add] at samples ticks
    exact (runOps_append _ _ s _ samples).trans ticks
  | rxFrame bytes => exact runOps_rxBytes s bytes
  | icoStream ch bytes => exact runOps_addBytes s ch bytes
  | _ => exact runOps_singleton _ s

end Sys2Proof.Machine
end

section
/-! Issuing requests one after another runs the operations they decode to. -/

namespace Sys2Proof.Machine

/-- A step with a request that stands for an operation is the operation, with the request gone from the trace. -/
theorem step_ofRequest (s : State) (r : Request) (i : Instr) (rest : List Stimulus) (h : decode s.params r = .ok i) :
    step (s.withTrace (Stimulus.ofRequest r :: rest)) = exec i (s.withTrace rest) := by
  simp only [step, State.withTrace_trace, State.withTrace_params, Stimulus.ofRequest, h]
  rfl

theorem run_of_step (k : Nat) {s t : State} (h : step s = .next t) :
    Host.Core.run Sys2Proof.core (k + 1) s = Host.Core.run Sys2Proof.core k t :=
  core_run_succ Sys2Proof.core k s t h

/-- The machine's run over requests that decode to operations is the run of these. -/
theorem run_requests (s : State) (requests : List Request) (ops : List Instr) (rest : List Stimulus)
    (h : requests.map (decode s.params) = ops.map .ok) :
    Host.Core.run Sys2Proof.core requests.length (s.withTrace (requests.map Stimulus.ofRequest ++ rest)) =
      runOps ops (s.withTrace rest) := by
  induction requests generalizing s ops with
  | nil =>
    cases ops with
    | nil => rfl
    | cons => cases h
  | cons r requests ih =>
    cases ops with
    | nil => cases h
    | cons i ops =>
      obtain ⟨hr, hrest⟩ := List.cons.inj h
      obtain ⟨t, ht, hin⟩ := exec_sameInputs s i
      have hexec (tr : List Stimulus) : exec i (s.withTrace tr) = .next (t.withTrace tr) := by
        rw [exec_withTrace, ht, mapNext]
      have hstep := (step_ofRequest s r i (requests.map Stimulus.ofRequest ++ rest) hr).trans (hexec _)
      have hrun := ih t ops (by rw [hin.params]; exact hrest)
      exact (run_of_step _ hstep).trans (hrun.trans (runOps_cons i ops _ _ (hexec rest)).symm)

/-- Settles O47: the requests decode to the operation's members, their run is the run of the members, and that is the
operation. -/
theorem issuingAnEncodingRunsTheOperation : Obligations.IssuingAnEncodingRunsTheOperation := by
  intro s i rest hp hi
  exact (run_requests s _ _ rest (map_decode_encode hp hi)).trans (runOps_expand i _)

end Sys2Proof.Machine
end

section
/-! The step, its three cases (R72, R109). -/

namespace Sys2Proof.Machine

variable {s t : State}

theorem step_idle (h : s.trace = []) : step s = .next s := by simp only [step, h]

theorem step_of_decode {x : Stimulus} {rest : List Stimulus} {i : Instr} (h : s.trace = x :: rest)
    (hi : decode s.params x.req = .ok i) : step s = exec i (s.accept x rest) := by simp only [step, h, hi]

theorem step_of_decode_error {x : Stimulus} {rest : List Stimulus} {why : DecodeError} (h : s.trace = x :: rest)
    (hw : decode s.params x.req = .error why) : step s = .refused (.undecodable why) := by simp only [step, h, hw]

/-- Settles O46: the three cases of the step. -/
theorem stepRunsTheDecodedOperation : Obligations.StepRunsTheDecodedOperation :=
  ⟨fun _ _ _ _ => step_of_decode, fun _ => step_idle, fun _ _ _ _ => step_of_decode_error⟩

/-- A step that answers a next state is an idle step or the operation its request stands for. -/
theorem step_eq_next (h : step s = .next t) : (s.trace = [] ∧ t = s) ∨
    ∃ x rest i, s.trace = x :: rest ∧ decode s.params x.req = .ok i ∧ exec i (s.accept x rest) = .next t := by
  cases htrace : s.trace with
  | nil =>
    rw [step_idle htrace] at h
    cases h
    exact .inl ⟨rfl, rfl⟩
  | cons x rest =>
    cases hdecode : decode s.params x.req with
    | error why => rw [step_of_decode_error htrace hdecode] at h; cases h
    | ok i => exact .inr ⟨x, rest, i, rfl, hdecode, (step_of_decode htrace hdecode).symm.trans h⟩

end Sys2Proof.Machine
end

section
/-! The invariant of the reachable states (R53): what each update of the state needs to keep it, and that every
operation, and so every step, keeps it. -/

namespace Sys2Proof.Machine

variable {s t : State} {c : Byte}

/-! ## What an update of a register needs -/

theorem ne_of_channelExists {p : Params} {c d : Byte} (hc : channelExists p c) (hd : ¬ channelExists p d) : d ≠ c :=
  fun e => hd (e ▸ hc)

/-- The invariant speaks of the parameters, the channel records, the parser and the pixel memory alone. -/
theorem State.Inv.congr (h : s.Inv) (hparams : t.params = s.params) (henc : t.enc = s.enc) (hfad : t.fad = s.fad)
    (hico : t.ico = s.ico) (hmem : t.mem = s.mem) (hrx : t.rx.ok s.params) : t.Inv := by
  cases t
  cases hparams; cases henc; cases hfad; cases hico; cases hmem
  exact ⟨h.params, h.memory, h.inSpace, h.wholePixels, h.icons, h.written, h.faders, hrx, h.absent⟩

theorem State.Inv.ret (h : s.Inv) (v : Word) : (s.ret v).Inv := h.congr rfl rfl rfl rfl rfl h.parser

theorem State.Inv.flag (h : s.Inv) (k : Cond) : (s.flag k).Inv := h.congr rfl rfl rfl rfl rfl h.parser

theorem State.Inv.sendMessage (h : s.Inv) (message : List Byte) : (s.sendMessage message).Inv :=
  h.congr rfl rfl rfl rfl rfl h.parser

theorem State.Inv.setRx (h : s.Inv) {r : ParserRec} (hr : r.ok s.params) : (s.setRx r).Inv :=
  h.congr rfl rfl rfl rfl rfl hr

theorem State.Inv.setEnc (h : s.Inv) (hc : channelExists s.params c) (r : EncRec) : (s.setEnc c r).Inv :=
  { h with
    absent := fun d hd => by
      rw [State.encAt_setEnc_ne _ _ _ _ (ne_of_channelExists hc hd)]
      exact h.absent d hd }

theorem State.Inv.setFad (h : s.Inv) (hc : channelExists s.params c) {r : FadRec} (hr : r.ok) : (s.setFad c r).Inv :=
  { h with
    faders := fun d => by
      rw [State.fadAt_setFad]
      split
      · exact hr
      · exact h.faders d
    absent := fun d hd => by
      rw [State.fadAt_setFad_ne _ _ _ _ (ne_of_channelExists hc hd)]
      exact h.absent d hd }

theorem State.Inv.setIco (h : s.Inv) (hc : channelExists s.params c) {r : IcoRec} (hr : r.ok)
    (written : ∀ i < r.cursor.toNat, (Memory.pixelAt s.mem c i).isSome) : (s.setIco c r).Inv :=
  { h with
    icons := fun d => by
      rw [State.icoAt_setIco]
      split
      · exact hr
      · exact h.icons d
    written := fun d i hi => by
      rw [State.icoAt_setIco] at hi
      split at hi
      · next e => subst e; exact written i hi
      · exact h.written d i hi
    absent := fun d hd => by
      rw [State.icoAt_setIco_ne _ _ _ _ (ne_of_channelExists hc hd)]
      exact h.absent d hd }

/-- A change of the icon record that moves neither the cursor nor `ico_ready` keeps the invariant. -/
theorem State.Inv.setIco_of_cursor_eq (h : s.Inv) (hc : channelExists s.params c) {r : IcoRec}
    (hcursor : r.cursor = (s.icoAt c).cursor) (hready : r.ready = (s.icoAt c).ready) : (s.setIco c r).Inv := by
  refine h.setIco hc ?_ fun i hi => h.written c i (hcursor ▸ hi)
  rw [IcoRec.ok, hcursor, hready]
  exact h.icons c

/-! ## What a pixel store needs -/

/-- A pixel store takes no pixel away. -/
theorem Memory.pixelAt_storePixel_isSome {m : Memory} {d : Byte} {j : Nat} (c : Byte) (i : Nat) (hi lo : Byte)
    (h : (Memory.pixelAt m d j).isSome) : (Memory.pixelAt (Memory.storePixel m c i hi lo) d j).isSome := by
  obtain ⟨hhigh, hlow⟩ := (Memory.pixelAt_isSome m d j).1 h
  rw [Memory.pixelAt_isSome, Memory.byteAt_storePixel, Memory.byteAt_storePixel]
  constructor
  · split_ifs
    exacts [rfl, rfl, hhigh]
  · split_ifs
    exacts [rfl, rfl, hlow]

/-- A pixel store keeps the memory made of whole pixels. -/
theorem Memory.storePixel_whole {m : Memory} {d : Byte} {j : Nat} (c : Byte) (i : Nat) (hi lo : Byte)
    (h : (Memory.byteAt m (pixelAddr d j)).isSome ↔ (Memory.byteAt m (pixelAddr d j + 1)).isSome) :
    (Memory.byteAt (Memory.storePixel m c i hi lo) (pixelAddr d j)).isSome ↔
      (Memory.byteAt (Memory.storePixel m c i hi lo) (pixelAddr d j + 1)).isSome := by
  by_cases e : pixelAddr d j = pixelAddr c i
  · simp [Memory.byteAt_storePixel, e]
  · have hc := pixelAddr_eq c i
    have hd := pixelAddr_eq d j
    have h1 : pixelAddr d j ≠ pixelAddr c i + 1 := by omega
    have h2 : pixelAddr d j + 1 ≠ pixelAddr c i := by omega
    simpa [Memory.byteAt_storePixel, e, h1, h2] using h

/-- Both bytes of a pixel lie in the icon space of the channels below NCH. -/
theorem pixelAddr_lt {p : Params} {i : Nat} (hc : channelExists p c) (hi : i < Config.npix) :
    pixelAddr c i + 1 < p.nch * Config.iconBytes := by
  have : c.toNat < p.nch := hc
  simp only [pixelAddr_eq, Config.npix, Config.iconBytes] at *
  omega

theorem State.Inv.writePixel (h : s.Inv) (hc : channelExists s.params c) {i : Nat} (hi : i < Config.npix)
    (hb lb : Byte) : (s.writePixel c i hb lb).Inv :=
  { h with
    memory := Memory.storePixel_wf _ _ _ _ _ h.memory
    inSpace := fun cell hcell => by
      have hlt : pixelAddr c i + 1 < (s.writePixel c i hb lb).params.nch * Config.iconBytes := pixelAddr_lt hc hi
      rcases Memory.mem_storePixel _ _ _ _ _ _ hcell with rfl | rfl | hold
      · exact hlt
      · exact Nat.lt_of_succ_lt hlt
      · exact h.inSpace cell hold
    wholePixels := fun d j hj => Memory.storePixel_whole c i hb lb (h.wholePixels d j hj)
    written := fun d j hj => Memory.pixelAt_storePixel_isSome c i hb lb (h.written d j hj) }

/-! ## The shared operations -/

theorem State.Inv.withChannel (h : s.Inv) {body : State → State} (hb : channelExists s.params c → (body s).Inv) :
    (s.withChannel c body).Inv :=
  s.withChannel_cases State.Inv c body (fun _ => (h.flag .chRange).ret 0) hb

theorem State.Inv.retPixel (h : s.Inv) (c : Byte) (i : Nat) : (s.retPixel c i).Inv := by
  obtain ⟨v, n, e⟩ := s.retPixel_frame c i
  rw [e]
  exact h.congr rfl rfl rfl rfl rfl h.parser

theorem State.Inv.tickOp (h : s.Inv) (c : Byte) (clk dt sw : Bool) : (s.tickOp c clk dt sw).Inv :=
  h.withChannel fun hc => (h.setEnc hc _).ret 0

theorem State.Inv.sampleOp (h : s.Inv) (c : Byte) (raw : BitVec 10) : (s.sampleOp c raw).Inv := by
  apply s.sampleOp_cases State.Inv c raw
  case absent => exact fun _ => (h.flag .chRange).ret 0
  case skipped => exact fun _ _ => h.ret 0
  case silent => exact fun hc _ _ => (h.setFad hc fun _ => rfl).ret 0
  case reports => exact fun hc _ _ => ((h.setFad hc fun _ => rfl).sendMessage _).ret 0

theorem State.Inv.icoStart (h : s.Inv) (hc : channelExists s.params c) : (s.icoStart c).Inv :=
  h.setIco hc (by simp [IcoRec.ok, Config.npix]) (fun i hi => absurd hi (Nat.not_lt_zero i))

/-- The cursor's advance keeps R53 (a) and (b): `ico_ready` is set as the cursor reaches NPIX. -/
theorem IcoRec.ok_advance {r : IcoRec} (h : r.ok) (hlt : r.cursor.toNat < Config.npix) (phase : Phase) :
    IcoRec.ok { r with
      cursor := r.cursor + 1
      ready := r.ready || decide ((r.cursor + 1).toNat = Config.npix)
      phase := phase } := by
  obtain ⟨-, hready⟩ := h
  have hnot : r.ready = false := by
    rw [← Bool.not_eq_true, hready]
    exact Nat.ne_of_lt hlt
  refine ⟨?_, ?_⟩
  · show (r.cursor + 1).toNat ≤ Config.npix
    rw [cursor_succ _ hlt]
    exact hlt
  · simp [hnot]

theorem State.Inv.icoAddByte (h : s.Inv) (hc : channelExists s.params c) (b : Byte) : (s.icoAddByte c b).Inv := by
  apply s.icoAddByte_cases State.Inv c b
  case high => exact fun _ => h.setIco_of_cursor_eq hc rfl rfl
  case store =>
    intro _ hlt
    refine (h.writePixel hc hlt _ _).setIco hc (IcoRec.ok_advance (h.icons c) hlt _) fun i hi => ?_
    replace hi : i < (s.icoAt c).cursor.toNat + 1 := cursor_succ _ hlt ▸ hi
    rcases Nat.lt_succ_iff_lt_or_eq.1 hi with hbelow | rfl
    · exact Memory.pixelAt_storePixel_isSome _ _ _ _ (h.written c i hbelow)
    · rw [State.writePixel_mem, Memory.pixelAt_storePixel_same, Option.isSome_some]
  case full => exact fun _ _ => h.setIco_of_cursor_eq hc rfl rfl

/-! ## The parser -/

/-- A frame just opened has its whole payload before it. -/
theorem ParserRec.ok_opened {p : Params} {b : Byte} (h : p.framed b) (r : ParserRec) :
    ParserRec.ok p { r with cmd := b, idx := 0, active := true } :=
  fun _ => ⟨h, Nat.lt_of_lt_of_le Nat.two_pos (two_le_inboundPlen h)⟩

/-- A payload byte that does not end the frame keeps R53 (c), and the frame's last byte leaves the parser idle. -/
theorem State.rxAdvance_rx_ok (h : s.rx.ok s.params) : s.rxAdvance.rx.ok s.params := by
  apply s.rxAdvance_cases (fun t => t.rx.ok s.params)
  case more =>
    intro hmore hactive
    obtain ⟨hframed, hlt⟩ := h hactive
    have hle := inboundPlen_le s.params s.rx.cmd
    rw [idx_succ _ (by omega)] at hmore
    refine ⟨hframed, ?_⟩
    show (s.rx.idx + 1).toNat < inboundPlen s.params s.rx.cmd
    rw [idx_succ _ (by omega)]
    omega
  case last =>
    intro _ hactive
    rw [State.rxDone_rx] at hactive
    cases hactive

/-- Every inbound byte keeps R53 (c). -/
theorem State.rxByteOp_rx_ok (h : s.rx.ok s.params) (b : Byte) : (s.rxByteOp b).rx.ok s.params := by
  apply s.rxByteOp_cases (fun t => t.rx.ok s.params)
  case request => intro _ _; rw [State.ret_rx, State.hsRespond_rx]; exact h
  case opens => exact fun _ _ hframed => ParserRec.ok_opened hframed s.rx
  case unknown => exact fun _ _ => h
  case channel =>
    intro _ _
    have := State.rxAdvance_rx_ok (s := s.rxChannel b) (by simpa using h)
    simpa only [State.ret_rx, State.rxChannel_params] using this
  case data =>
    intro _ _
    have := State.rxAdvance_rx_ok (s := s.rxData b) (by simpa [ParserRec.ok] using h)
    simpa only [State.ret_rx, State.rxData_params] using this

theorem State.Inv.rxAdvance (h : s.Inv) : s.rxAdvance.Inv :=
  h.congr s.rxAdvance_params s.rxAdvance_enc s.rxAdvance_fad s.rxAdvance_ico s.rxAdvance_mem
    (State.rxAdvance_rx_ok h.parser)

theorem State.Inv.hsRespond (h : s.Inv) : s.hsRespond.Inv :=
  s.hsRespond_cases State.Inv (fun _ => h.sendMessage _) (fun _ => h.flag .noId)

theorem State.Inv.rxChannel (h : s.Inv) (b : Byte) : (s.rxChannel b).Inv := by
  have hset : (s.setRx { s.rx with ch := b }).Inv := h.setRx h.parser
  exact s.rxChannel_cases State.Inv b (fun _ => hset.flag .chRange) (fun hc _ => hset.icoStart hc) (fun _ _ => hset)

theorem State.Inv.rxData (h : s.Inv) (b : Byte) : (s.rxData b).Inv :=
  s.rxData_cases State.Inv b (fun _ => h.setRx h.parser) (fun _ _ => h.setRx h.parser)
    (fun _ _ _ hc => h.icoAddByte hc b) (fun _ _ _ => h)

theorem State.Inv.rxByteOp (h : s.Inv) (b : Byte) : (s.rxByteOp b).Inv := by
  apply s.rxByteOp_cases State.Inv
  case request => exact fun _ _ => h.hsRespond.ret 0
  case opens => exact fun _ _ hframed => (h.setRx (ParserRec.ok_opened hframed s.rx)).ret 0
  case unknown => exact fun _ _ => (h.flag .unknownCmd).ret 0
  case channel => exact fun _ _ => (h.rxChannel b).rxAdvance.ret 0
  case data => exact fun _ _ => (h.rxData b).rxAdvance.ret 0

/-! ## Every operation and every step -/

theorem State.Inv.exec_local (h : s.Inv) {i : Instr} (hi : i.isLocal = true) : ∃ t, exec i s = .next t ∧ t.Inv := by
  cases i with
  | nop => exact ⟨_, rfl, h.ret _⟩
  | rxByte b => exact ⟨_, rfl, h.rxByteOp b⟩
  | rxRearm => exact ⟨_, rfl, (h.setRx (r := { s.rx with active := false }) nofun).ret 0⟩
  | icoStart ch => exact ⟨_, rfl, h.withChannel fun hc => (h.icoStart hc).ret 0⟩
  | icoAddByte ch b => exact ⟨_, rfl, h.withChannel fun hc => (h.icoAddByte hc b).ret 0⟩
  | icoIsReady ch => exact ⟨_, rfl, h.withChannel fun _ => h.ret _⟩
  | icoSetPh ch v =>
    exact ⟨_, rfl, h.withChannel fun hc =>
      (h.setIco_of_cursor_eq hc (r := { s.icoAt ch with placeholder := v }) rfl rfl).ret 0⟩
  | icoDraw ch x y =>
    refine ⟨_, rfl, h.withChannel fun _ => ?_⟩
    split
    · exact h.congr rfl rfl rfl rfl rfl h.parser
    · exact h.ret 0
  | icoRdPix ch k => exact ⟨_, rfl, h.withChannel fun _ => h.retPixel ch _⟩
  | fadSample ch raw => exact ⟨_, rfl, h.sampleOp ch raw⟩
  | encTick ch clk dt sw => exact ⟨_, rfl, h.tickOp ch clk dt sw⟩
  | encGetDelta ch => exact ⟨_, rfl, h.withChannel fun hc => (h.setEnc hc _).ret _⟩
  | encWasPressed ch => exact ⟨_, rfl, h.withChannel fun hc => (h.setEnc hc _).ret _⟩
  | statRead => exact ⟨_, rfl, h.ret _⟩
  | statClear => exact ⟨_, rfl, h.congr rfl rfl rfl rfl rfl h.parser⟩
  | reservedF => exact ⟨_, rfl, (h.flag .badOp).ret 0⟩
  | _ => cases hi

theorem State.Inv.exec (h : s.Inv) (i : Instr) : ∃ t, exec i s = .next t ∧ t.Inv :=
  exec_keeps State.Inv (fun _ _ hi h => h.exec_local hi) (fun _ h => h.hsRespond.ret 0)
    (fun _ _ _ h => h.withChannel fun _ => (h.sendMessage _).ret 0) i s h

theorem State.Inv.accept (h : s.Inv) (x : Stimulus) (rest : List Stimulus) : (s.accept x rest).Inv :=
  h.congr rfl rfl rfl rfl rfl h.parser

/-- Settles O49: an idle step changes nothing, and every other step is an operation, which keeps the invariant. -/
theorem everyStepKeepsInv : Obligations.EveryStepKeepsInv := by
  intro s t h hstep
  rcases step_eq_next hstep with ⟨-, rfl⟩ | ⟨x, rest, i, -, -, hexec⟩
  · exact h
  · obtain ⟨u, hu, hInv⟩ := (h.accept x rest).exec i
    cases hu.symm.trans hexec
    exact hInv

/-! ## The state after reset -/

@[simp] theorem State.resetWith_mem (p : Params) : (State.resetWith p).mem = [] := rfl

/-- Settles O50: at reset nothing is written, no frame is open and no fader has been sampled. -/
theorem resetHasInv : Obligations.ResetHasInv := by
  refine fun p hp => ⟨⟨hp, State.resetWith_mem_wf p, ?_, ?_, ?_, ?_, ?_, ?_, ?_⟩, ?_⟩
  · exact fun _ h => absurd h List.not_mem_nil
  · intro c i _; rw [State.resetWith_mem, Memory.byteAt_nil, Memory.byteAt_nil]
  · intro c; rw [State.icoAt_resetWith]; decide
  · intro c i h; rw [State.icoAt_resetWith] at h; exact absurd h (Nat.not_lt_zero i)
  · intro c; rw [State.fadAt_resetWith]; decide
  · exact nofun
  · exact fun c _ => ⟨State.encAt_resetWith p c, State.fadAt_resetWith p c, State.icoAt_resetWith p c⟩
  · intro c h; rw [State.fadAt_resetWith] at h; cases h

/-- Settles O51: the records after reset, register by register. -/
theorem resetValues : Obligations.ResetValues := by
  refine ⟨fun p c => ?_, fun _ => ⟨rfl, rfl, rfl, rfl, rfl, rfl, rfl⟩, rfl⟩
  rw [State.encAt_resetWith, State.fadAt_resetWith, State.icoAt_resetWith]
  refine ⟨rfl, rfl, rfl, rfl, rfl, rfl, fun i => ?_⟩
  simp [Memory.pixelAt]

end Sys2Proof.Machine
end

section
/-! What the spec leaves without a value is never observed (U2 to U4): an operation takes states that are alike to
states that are alike. -/

namespace Sys2Proof.Machine

variable {s t : State}

/-! ## Updates of alike states -/

theorem State.alike.ret (h : s.alike t) (v : Word) : (s.ret v).alike (t.ret v) := { h with res := rfl }

theorem State.alike.flag (h : s.alike t) (k : Cond) : (s.flag k).alike (t.flag k) :=
  { h with status := congrArg (stickySet k) h.status }

theorem State.alike.acknowledge (h : s.alike t) : s.acknowledge.alike t.acknowledge := { h with status := rfl }

theorem State.alike.sendMessage (h : s.alike t) (message : List Byte) :
    (s.sendMessage message).alike (t.sendMessage message) :=
  { h with tx := congrArg (· ++ message) h.tx }

theorem State.alike.emit (h : s.alike t) (e : Event) : (s.emit e).alike (t.emit e) :=
  { h with ev := congrArg (· ++ [e]) h.ev }

theorem State.alike.writePixel (h : s.alike t) (c : Byte) (i : Nat) (hi lo : Byte) :
    (s.writePixel c i hi lo).alike (t.writePixel c i hi lo) :=
  { h with mem := congrArg (Memory.storePixel · c i hi lo) h.mem }

theorem State.alike.accept (h : s.alike t) (x : Stimulus) (rest : List Stimulus) :
    (s.accept x rest).alike (t.accept x rest) :=
  { h with ports := congrArg (Ports.drive · x) h.ports, trace := rfl }

theorem State.alike.setEnc (h : s.alike t) (c : Byte) (r : EncRec) : (s.setEnc c r).alike (t.setEnc c r) :=
  { h with enc := by simp only [State.setEnc_enc, h.enc] }

theorem State.alike.setFad (h : s.alike t) (c : Byte) {r r' : FadRec} (hr : r.alike r') :
    (s.setFad c r).alike (t.setFad c r') :=
  { h with
    fad := fun d => by
      rw [State.fadAt_setFad, State.fadAt_setFad]
      split
      · exact hr
      · exact h.fad d }

theorem State.alike.setIco (h : s.alike t) (c : Byte) {r r' : IcoRec} (hr : r.alike r') :
    (s.setIco c r).alike (t.setIco c r') :=
  { h with
    ico := fun d => by
      rw [State.icoAt_setIco, State.icoAt_setIco]
      split
      · exact hr
      · exact h.ico d }

theorem State.alike.setRx (h : s.alike t) {r r' : ParserRec} (hr : r.alike s.params r') :
    (s.setRx r).alike (t.setRx r') :=
  { h with rx := hr }

theorem State.alike.encAt (h : s.alike t) (c : Byte) : s.encAt c = t.encAt c := by
  simp only [State.encAt, h.enc]

/-! ## The shared operations -/

theorem State.alike.withChannel (h : s.alike t) (c : Byte) {body body' : State → State}
    (hb : (body s).alike (body' t)) : (s.withChannel c body).alike (t.withChannel c body') := by
  apply s.withChannel_cases (fun u => u.alike (t.withChannel c body')) c body
  case absent =>
    intro hc
    rw [t.withChannel_of_absent c body' (h.params ▸ hc)]
    exact (h.flag .chRange).ret 0
  case present =>
    intro hc
    rw [t.withChannel_of_exists c body' (h.params ▸ hc)]
    exact hb

theorem State.alike.retPixel (h : s.alike t) (c : Byte) (i : Nat) : (s.retPixel c i).alike (t.retPixel c i) := by
  cases hs : Memory.pixelAt s.mem c i with
  | some v =>
    rw [s.retPixel_written c i v hs, t.retPixel_written c i v (h.mem ▸ hs)]
    exact h.ret _
  | none =>
    rw [s.retPixel_unwritten c i hs, t.retPixel_unwritten c i (h.mem ▸ hs)]
    exact { h with
      res := congrArg (fun n => pixelResult (Config.freePixel n)) h.drawn
      drawn := congrArg (· + 1) h.drawn }

theorem State.alike.tickOp (h : s.alike t) (c : Byte) (clk dt sw : Bool) :
    (s.tickOp c clk dt sw).alike (t.tickOp c clk dt sw) := by
  refine h.withChannel c ?_
  rw [h.params, h.ports, h.encAt c]
  exact (h.setEnc c _).ret 0

/-! ## The fader -/

variable {r r' : FadRec}

/-- The filter does not read the register of a fader that has taken no sample (R202). -/
theorem FadRec.alike.filt (h : r.alike r') (raw : BitVec 10) :
    Sys2Proof.Machine.filt r raw = Sys2Proof.Machine.filt r' raw := by
  obtain ⟨hvalid, hfilt, -⟩ := h
  simp only [Machine.filt, ← hvalid]
  split
  · next hv => rw [hfilt hv]
  · rfl

/-- The gate does not read the last value of a fader that has sent none (R204). -/
theorem FadRec.alike.gateOpens (h : r.alike r') (deadband : Nat) (q : Byte) :
    Sys2Proof.Machine.gateOpens deadband r q = Sys2Proof.Machine.gateOpens deadband r' q := by
  obtain ⟨-, -, hsentValid, hsent, -⟩ := h
  simp only [Machine.gateOpens, ← hsentValid]
  cases hs : r.sentValid with
  | false => rfl
  | true => rw [hsent hs]

theorem FadRec.alike.sampleDue (h : r.alike r') (now : Time) :
    Sys2Proof.Machine.sampleDue now r = Sys2Proof.Machine.sampleDue now r' := by
  obtain ⟨-, -, -, -, ht⟩ := h
  rw [Machine.sampleDue, Machine.sampleDue, ht]

theorem FadRec.alike.sampled (h : r.alike r') (now : Time) (f : BitVec 10) :
    FadRec.alike { r with t := now, filt := f, valid := true } { r' with t := now, filt := f, valid := true } := by
  obtain ⟨-, -, hsentValid, hsent, -⟩ := h
  exact ⟨rfl, fun _ => rfl, hsentValid, hsent, rfl⟩

theorem FadRec.alike.reported (h : r.alike r') (q : Byte) :
    FadRec.alike { r with sent := q, sentValid := true } { r' with sent := q, sentValid := true } := by
  obtain ⟨hvalid, hfilt, -, -, ht⟩ := h
  exact ⟨hvalid, hfilt, rfl, fun _ => rfl, ht⟩

theorem State.alike.gate (h : s.alike t) (c q : Byte) : (s.gate c q).alike (t.gate c q) := by
  have hg := (h.fad c).gateOpens s.params.deadband q
  cases hs : Machine.gateOpens s.params.deadband (s.fadAt c) q with
  | false =>
    rw [s.gate_closed c q hs, t.gate_closed c q (h.params ▸ hg.symm.trans hs)]
    exact h
  | true =>
    rw [s.gate_open c q hs, t.gate_open c q (h.params ▸ hg.symm.trans hs)]
    exact (h.setFad c ((h.fad c).reported q)).sendMessage _

theorem State.alike.sampleOp (h : s.alike t) (c : Byte) (raw : BitVec 10) :
    (s.sampleOp c raw).alike (t.sampleOp c raw) := by
  refine h.withChannel c ?_
  have hr := h.fad c
  simp only [← h.ports, ← hr.sampleDue, ← hr.filt raw]
  split
  · exact ((h.setFad c (hr.sampled _ _)).gate c _).ret 0
  · exact h.ret 0

/-! ## The icon assembler -/

theorem IcoRec.alike.iconShown {r r' : IcoRec} (h : r.alike r') :
    Sys2Proof.Machine.iconShown r = Sys2Proof.Machine.iconShown r' := by
  obtain ⟨hready, hplaceholder, -⟩ := h
  rw [Machine.iconShown, Machine.iconShown, hready, hplaceholder]

theorem IcoRec.alike.setPlaceholder {r r' : IcoRec} (h : r.alike r') (v : Bool) :
    IcoRec.alike { r with placeholder := v } { r' with placeholder := v } := by
  obtain ⟨hready, -, hcursor, hphase, hhi⟩ := h
  exact ⟨hready, rfl, hcursor, hphase, hhi⟩

theorem State.alike.icoStart (h : s.alike t) (c : Byte) : (s.icoStart c).alike (t.icoStart c) :=
  h.setIco c ⟨rfl, rfl, rfl, rfl, nofun⟩

/-- The holding register is written before it is read (R39). -/
theorem State.alike.icoAddByte (h : s.alike t) (c b : Byte) : (s.icoAddByte c b).alike (t.icoAddByte c b) := by
  obtain ⟨hready, hplaceholder, hcursor, hphase, hhi⟩ := h.ico c
  apply s.icoAddByte_cases (fun u => u.alike (t.icoAddByte c b)) c b
  case high =>
    intro hp
    rw [t.icoAddByte_high c b (hphase ▸ hp)]
    exact h.setIco c ⟨hready, hplaceholder, hcursor, rfl, fun _ => rfl⟩
  case store =>
    intro hp hlt
    rw [t.icoAddByte_store c b (hphase ▸ hp) (hcursor ▸ hlt), ← hcursor, ← hready, ← hhi hp]
    exact (h.writePixel c _ _ b).setIco c ⟨rfl, hplaceholder, rfl, rfl, nofun⟩
  case full =>
    intro hp hge
    rw [t.icoAddByte_full c b (hphase ▸ hp) (hcursor ▸ hge)]
    exact h.setIco c ⟨hready, hplaceholder, hcursor, rfl, nofun⟩

theorem State.alike.addByteOp (h : s.alike t) (c b : Byte) : (s.addByteOp c b).alike (t.addByteOp c b) :=
  h.withChannel c ((h.icoAddByte c b).ret 0)

/-! ## The parser -/

theorem State.alike.hsRespond (h : s.alike t) : s.hsRespond.alike t.hsRespond := by
  unfold State.hsRespond
  rw [← h.ports, ← h.params]
  split
  · exact h.sendMessage _
  · exact h.flag .noId

/-- The parser of a frame just opened has read neither the channel nor any byte of the buffer. -/
theorem State.alike.rxIdle (h : s.alike t) (b : Byte) : (s.rxIdle b).alike (t.rxIdle b) := by
  unfold State.rxIdle
  rw [← h.params]
  split
  · exact h.hsRespond
  · split
    · exact h.setRx ⟨rfl, fun _ => ⟨rfl, rfl, fun hne => absurd rfl hne, fun _ k hk => absurd hk (Nat.not_lt_zero _)⟩⟩
    · exact h.flag .unknownCmd

/-- An idle parser's other registers are not read (U4). -/
theorem ParserRec.alike_idle (p : Params) (a b : ParserRec) :
    ParserRec.alike p { a with active := false } { b with active := false } := ⟨rfl, nofun⟩

/-- The end of a frame delivers the same event when the channel and the bytes the event takes are the same. -/
theorem State.alike.rxDone (h : s.alike t) (hcmd : s.rx.cmd = t.rx.cmd) (hch : s.rx.ch = t.rx.ch)
    (htext : s.rx.cmd = s.params.cmdAppName → s.rx.buf = t.rx.buf)
    (hvolume : s.rx.cmd ≠ s.params.cmdAppName → s.rx.cmd = s.params.cmdVolume → s.rx.buf[0] = t.rx.buf[0]) :
    s.rxDone.alike t.rxDone := by
  have hidle := ParserRec.alike_idle s.params s.rx t.rx
  unfold State.rxDone
  rw [← h.params, ← hcmd, ← hch]
  by_cases hexists : channelExists s.params s.rx.ch
  · by_cases happ : s.rx.cmd = s.params.cmdAppName
    · simp only [if_pos hexists, if_pos happ, ← htext happ]
      exact (h.emit _).setRx hidle
    · by_cases hvol : s.rx.cmd = s.params.cmdVolume
      · simp only [if_pos hexists, if_neg happ, if_pos hvol, ← hvolume happ hvol]
        exact (h.emit _).setRx hidle
      · simp only [if_pos hexists, if_neg happ, if_neg hvol]
        exact h.setRx hidle
  · simp only [if_neg hexists]
    exact h.setRx hidle

/-- What a payload byte leaves before it is counted: two parser records that agree on the frame's channel and on
every byte the frame has stored, this one included. -/
structure ParserRec.Stored (p : Params) (a b : ParserRec) : Prop where
  active : a.active = b.active
  cmd : a.cmd = b.cmd
  idx : a.idx = b.idx
  ch : a.ch = b.ch
  text : a.cmd = p.cmdAppName → ∀ k : Fin 64, k.val < a.idx.toNat → a.buf[k] = b.buf[k]
  volume : a.cmd ≠ p.cmdAppName → a.cmd = p.cmdVolume → a.idx ≠ 0 → a.buf[0] = b.buf[0]

theorem ParserRec.Stored.alike {p : Params} {a b : ParserRec} (h : a.Stored p b) : ParserRec.alike p a b :=
  ⟨h.active, fun _ => ⟨h.cmd, h.idx, fun _ => h.ch, fun happ k hk => h.text happ k (Nat.lt_of_succ_lt hk)⟩⟩

/-- Counted, the byte is one the frame has written. -/
theorem ParserRec.Stored.advance {p : Params} {a b : ParserRec} (h : a.Stored p b) (hidx : a.idx.toNat < 8193) :
    ParserRec.alike p { a with idx := a.idx + 1 } { b with idx := b.idx + 1 } := by
  refine ⟨h.active, fun _ => ⟨h.cmd, congrArg (· + 1) h.idx, fun _ => h.ch, fun happ k hk => h.text happ k ?_⟩⟩
  rw [idx_succ _ hidx] at hk
  exact Nat.lt_of_succ_lt_succ hk

/-- The count advances alike, and a complete frame has stored every byte its event takes. -/
theorem State.alike.rxAdvance (h : s.alike t) (hstored : s.rx.Stored s.params t.rx) (hok : s.rx.ok s.params)
    (hactive : s.rx.active = true) : s.rxAdvance.alike t.rxAdvance := by
  obtain ⟨hframed, hlt⟩ := hok hactive
  have hle := inboundPlen_le s.params s.rx.cmd
  have hnext := h.setRx (hstored.advance (by omega))
  apply s.rxAdvance_cases (fun u => u.alike t.rxAdvance)
  case more =>
    intro hmore
    rw [t.rxAdvance_more (by rwa [← h.params, ← hstored.cmd, ← hstored.idx])]
    exact hnext
  case last =>
    intro hlast
    rw [t.rxAdvance_last (by rwa [← h.params, ← hstored.cmd, ← hstored.idx])]
    rw [idx_succ _ (by omega)] at hlast
    refine hnext.rxDone hstored.cmd hstored.ch (fun happ => ?_)
      (fun happ hvol => hstored.volume happ hvol fun hzero => ?_)
    · replace happ : s.rx.cmd = s.params.cmdAppName := happ
      rw [happ, inboundPlen_appName] at hlast
      exact Vector.ext fun k hk => hstored.text happ ⟨k, hk⟩ (by show k < _; omega)
    · have htwo := two_le_inboundPlen hframed
      rw [← hlast, hzero] at htwo
      exact absurd htwo (by decide)

/-- The channel byte is taken alike, and no byte of the buffer has been stored (R132). -/
theorem State.alike.rxChannel (h : s.alike t) (hactive : s.rx.active = true) (hidx : s.rx.idx = 0) (b : Byte) :
    (s.rxChannel b).alike (t.rxChannel b) ∧ (s.rxChannel b).rx.Stored s.params (t.rxChannel b).rx := by
  obtain ⟨hsame, hframe⟩ := h.rx
  obtain ⟨hcmd, hcount, -, -⟩ := hframe hactive
  have hstored : ParserRec.Stored s.params { s.rx with ch := b } { t.rx with ch := b } :=
    ⟨hsame, hcmd, hcount, rfl, fun _ k hk => absurd hk (by simp [hidx]), fun _ _ hne => absurd hidx hne⟩
  have hset := h.setRx hstored.alike
  rw [State.rxChannel_rx, State.rxChannel_rx]
  refine ⟨?_, hstored⟩
  unfold State.rxChannel
  rw [← h.params, ← hcmd]
  split
  · exact hset.flag .chRange
  · split
    · exact hset.icoStart b
    · exact hset

/-- A payload byte after the channel is stored alike (R133). -/
theorem State.alike.rxData (h : s.alike t) (hactive : s.rx.active = true) (hidx : s.rx.idx ≠ 0) (b : Byte) :
    (s.rxData b).alike (t.rxData b) ∧ (s.rxData b).rx.Stored s.params (t.rxData b).rx := by
  obtain ⟨hsame, hframe⟩ := h.rx
  obtain ⟨hcmd, hcount, hch, hbuf⟩ := hframe hactive
  have hbytes (happ : s.rx.cmd ≠ s.params.cmdAppName) (hvol : s.rx.cmd ≠ s.params.cmdVolume) :
      s.rx.Stored s.params t.rx :=
    ⟨hsame, hcmd, hcount, hch hidx, fun e => absurd e happ, fun _ e => absurd e hvol⟩
  unfold State.rxData
  rw [← h.params, ← hcmd, ← hcount, ← hch hidx]
  split
  case isTrue happ =>
    have hstored : ParserRec.Stored s.params
        { s.rx with buf := s.rx.buf.setIfInBounds (s.rx.idx.toNat - 1) b }
        { t.rx with buf := t.rx.buf.setIfInBounds (s.rx.idx.toNat - 1) b } := by
      refine ⟨hsame, hcmd, hcount, hch hidx, fun _ k hk => ?_, fun hne => absurd happ hne⟩
      simp only [Fin.getElem_fin, Vector.getElem_setIfInBounds]
      split
      · rfl
      · exact hbuf happ k (by simp only at hk; omega)
    exact ⟨h.setRx hstored.alike, hstored⟩
  case isFalse happ =>
    split
    case isTrue hvol =>
      have hstored : ParserRec.Stored s.params { s.rx with buf := s.rx.buf.set 0 b }
          { t.rx with buf := t.rx.buf.set 0 b } :=
        ⟨hsame, hcmd, hcount, hch hidx, fun e => absurd e happ, fun _ _ _ => by simp only [Vector.getElem_set_self]⟩
      exact ⟨h.setRx hstored.alike, hstored⟩
    case isFalse hvol =>
      split
      · split
        · refine ⟨h.icoAddByte _ b, ?_⟩
          rw [State.icoAddByte_rx, State.icoAddByte_rx]
          exact hbytes happ hvol
        · exact ⟨h, hbytes happ hvol⟩
      · exact ⟨h, hbytes happ hvol⟩

/-- One payload byte (R132). -/
theorem State.alike.rxPayload (h : s.alike t) (hok : s.rx.ok s.params) (hactive : s.rx.active = true) (b : Byte) :
    (s.rxPayload b).alike (t.rxPayload b) := by
  obtain ⟨hsame, hframe⟩ := h.rx
  obtain ⟨hcmd, hcount, -, -⟩ := hframe hactive
  unfold State.rxPayload
  rw [← hcount]
  split
  case isTrue hzero =>
    obtain ⟨halike, hstored⟩ := h.rxChannel hactive hzero b
    exact halike.rxAdvance (by simpa using hstored) (by simpa using hok) (by simpa using hactive)
  case isFalse hidx =>
    obtain ⟨halike, hstored⟩ := h.rxData hactive hidx b
    exact halike.rxAdvance (by simpa using hstored) (by simpa [ParserRec.ok] using hok) (by simpa using hactive)

theorem State.alike.rxByteOp (h : s.alike t) (hok : s.rx.ok s.params) (b : Byte) :
    (s.rxByteOp b).alike (t.rxByteOp b) := by
  obtain ⟨hsame, -⟩ := h.rx
  unfold State.rxByteOp
  rw [← hsame]
  split
  case isTrue hactive => exact (h.rxPayload hok hactive b).ret 0
  case isFalse => exact (h.rxIdle b).ret 0

/-! ## Sequences of operations -/

theorem State.alike.rxBytes (h : s.alike t) (hok : s.rx.ok s.params) (bytes : List Byte) :
    (s.rxBytes bytes).alike (t.rxBytes bytes) := by
  induction bytes generalizing s t with
  | nil => exact h
  | cons b rest ih =>
    exact ih (h.rxByteOp hok b) (by simpa only [State.rxByteOp_params] using State.rxByteOp_rx_ok hok b)

theorem State.alike.addBytes (h : s.alike t) (c : Byte) (bytes : List Byte) :
    (bytes.foldl (fun u b => u.addByteOp c b) s).alike (bytes.foldl (fun u b => u.addByteOp c b) t) :=
  List.foldl_rel h fun b _ _ _ hu => hu.addByteOp c b

theorem State.alike.sampleAll (h : s.alike t) (c : Nat) (inputs : List TickInput) :
    (s.sampleAll c inputs).alike (t.sampleAll c inputs) := by
  induction inputs generalizing s t c with
  | nil => exact h
  | cons x rest ih => exact ih (h.sampleOp _ _) _

theorem State.alike.tickAll (h : s.alike t) (c : Nat) (inputs : List TickInput) :
    (s.tickAll c inputs).alike (t.tickAll c inputs) := by
  induction inputs generalizing s t c with
  | nil => exact h
  | cons x rest ih => exact ih (h.tickOp _ _ _ _) _

/-! ## Every operation and every step -/

/-- Every operation takes alike states to alike states, as long as the parser's frame has its shape (R53 (c)). -/
theorem State.alike.exec (h : s.alike t) (hok : s.rx.ok s.params) (i : Instr) :
    ∃ s' t', exec i s = .next s' ∧ exec i t = .next t' ∧ s'.alike t' := by
  cases i with
  | nop => exact ⟨_, _, rfl, rfl, h.ret 0⟩
  | rxByte b => exact ⟨_, _, rfl, rfl, h.rxByteOp hok b⟩
  | rxRearm => exact ⟨_, _, rfl, rfl, (h.setRx (ParserRec.alike_idle _ _ _)).ret 0⟩
  | icoStart ch => exact ⟨_, _, rfl, rfl, h.withChannel ch ((h.icoStart ch).ret 0)⟩
  | icoAddByte ch b => exact ⟨_, _, rfl, rfl, h.addByteOp ch b⟩
  | icoIsReady ch =>
    refine ⟨_, _, rfl, rfl, h.withChannel ch ?_⟩
    rw [(h.ico ch).iconShown]
    exact h.ret _
  | icoSetPh ch v => exact ⟨_, _, rfl, rfl, h.withChannel ch ((h.setIco ch ((h.ico ch).setPlaceholder v)).ret 0)⟩
  | icoDraw ch x y =>
    refine ⟨_, _, rfl, rfl, h.withChannel ch ?_⟩
    rw [(h.ico ch).iconShown]
    split
    · exact (h.emit _).ret 0
    · exact h.ret 0
  | icoRdPix ch k => exact ⟨_, _, rfl, rfl, h.withChannel ch (h.retPixel ch _)⟩
  | fadSample ch raw => exact ⟨_, _, rfl, rfl, h.sampleOp ch raw⟩
  | encTick ch clk dt sw => exact ⟨_, _, rfl, rfl, h.tickOp ch clk dt sw⟩
  | encGetDelta ch | encWasPressed ch =>
    refine ⟨_, _, rfl, rfl, h.withChannel ch ?_⟩
    simp only [h.encAt ch]
    exact (h.setEnc ch _).ret _
  | statRead =>
    obtain ⟨hactive, -⟩ := h.rx
    refine ⟨_, _, rfl, rfl, ?_⟩
    rw [hactive, h.status]
    exact h.ret _
  | statClear => exact ⟨_, _, rfl, rfl, h.acknowledge.ret 0⟩
  | reservedF => exact ⟨_, _, rfl, rfl, (h.flag .badOp).ret 0⟩
  | hsResp => exact ⟨_, _, rfl, rfl, h.hsRespond.ret 0⟩
  | faderUpd ch position => exact ⟨_, _, rfl, rfl, h.withChannel ch ((h.sendMessage _).ret 0)⟩
  | hsReq | unrecognised | rxFrame => exact ⟨_, _, rfl, rfl, h.rxBytes hok _⟩
  | appName | volume | icon =>
    refine ⟨_, _, rfl, rfl, ?_⟩
    rw [← h.params]
    exact h.rxBytes hok _
  | tick inputs => exact ⟨_, _, rfl, rfl, (h.sampleAll 0 inputs).tickAll 0 inputs⟩
  | icoStream ch bytes => exact ⟨_, _, rfl, rfl, h.addBytes ch bytes⟩

/-- Settles O52: alike states have the same trace, so a step runs the same operation on both at the same ports. -/
theorem unspecifiedValuesAreNeverObserved : Obligations.UnspecifiedValuesAreNeverObserved := by
  intro s t s' _ hok h hstep
  rcases step_eq_next hstep with ⟨hidle, rfl⟩ | ⟨x, rest, i, htrace, hdecode, hexec⟩
  · exact ⟨t, step_idle (h.trace ▸ hidle), h⟩
  · obtain ⟨u, t', hu, ht', halike⟩ := (h.accept x rest).exec hok i
    cases hu.symm.trans hexec
    exact ⟨t', (step_of_decode (h.trace ▸ htrace) (h.params ▸ hdecode)).trans ht', halike⟩

end Sys2Proof.Machine
end

section
/-! What an operation puts out: whole messages on `tx` (R47, R144) and well-formed events on `ev` (R48), after what
stood there. -/

namespace Sys2Proof.Machine

/-- The two messages the block sends: the announcement of 29 bytes, and the update of a channel that exists. -/
def IsMessage (p : Params) (uuid : BitVec 128) (m : List Byte) : Prop :=
  m = announcement p uuid ∧ m.length = 29 ∨ ∃ c q : Byte, m = [0x10, c, q] ∧ channelExists p c

/-- An event for a channel that exists, with a text of 64 bytes or a value of at most 100. -/
def Event.wf (p : Params) : Event → Prop
  | .appName ch text => channelExists p ch ∧ text.length = 64
  | .volume ch value => channelExists p ch ∧ value.toNat ≤ 100
  | .drawBitmap ch _ _ => channelExists p ch

/-- The second state has the inputs of the first, and its two output streams continue those of the first. -/
structure State.Outputs (s t : State) : Prop where
  inputs : s.SameInputs t
  tx : ∃ msgs : List (List Byte), t.tx = s.tx ++ msgs.flatten ∧ ∀ m ∈ msgs, IsMessage s.params s.ports.uuid m
  ev : ∃ es : List Event, t.ev = s.ev ++ es ∧ ∀ e ∈ es, e.wf s.params

variable {s t u : State}

theorem State.Outputs.silent (h : s.SameInputs t) (htx : t.tx = s.tx) (hev : t.ev = s.ev) : s.Outputs t :=
  ⟨h, ⟨[], by simpa using htx, nofun⟩, ⟨[], by simpa using hev, nofun⟩⟩

theorem State.Outputs.trans (h : s.Outputs t) (h' : t.Outputs u) : s.Outputs u := by
  obtain ⟨hin, ⟨msgs, htx, hmsgs⟩, es, hev, hes⟩ := h
  obtain ⟨hin', ⟨msgs', htx', hmsgs'⟩, es', hev', hes'⟩ := h'
  rw [hin.params, hin.ports] at hmsgs'
  rw [hin.params] at hes'
  exact ⟨hin.trans hin',
    ⟨msgs ++ msgs', by rw [htx', htx, List.flatten_append, List.append_assoc],
      List.forall_mem_append.2 ⟨hmsgs, hmsgs'⟩⟩,
    ⟨es ++ es', by rw [hev', hev, List.append_assoc], List.forall_mem_append.2 ⟨hes, hes'⟩⟩⟩

variable (s)

/-! ## The shared operations -/

theorem State.ret_outputs (v : Word) : s.Outputs (s.ret v) := .silent ⟨rfl, rfl, rfl⟩ rfl rfl

theorem State.Outputs.ret {s t : State} (h : s.Outputs t) (v : Word) : s.Outputs (t.ret v) := h.trans (t.ret_outputs v)

theorem State.flag_outputs (k : Cond) : s.Outputs (s.flag k) := .silent ⟨rfl, rfl, rfl⟩ rfl rfl

theorem State.sendMessage_outputs {m : List Byte} (hm : IsMessage s.params s.ports.uuid m) :
    s.Outputs (s.sendMessage m) :=
  ⟨⟨rfl, rfl, rfl⟩, ⟨[m], by simp, by simpa using hm⟩, ⟨[], by simp, nofun⟩⟩

theorem State.emit_outputs {e : Event} (he : e.wf s.params) : s.Outputs (s.emit e) :=
  ⟨⟨rfl, rfl, rfl⟩, ⟨[], by simp, nofun⟩, ⟨[e], rfl, by simpa using he⟩⟩

theorem State.setRx_outputs (r : ParserRec) : s.Outputs (s.setRx r) := .silent ⟨rfl, rfl, rfl⟩ rfl rfl

theorem State.withChannel_outputs (c : Byte) {body : State → State}
    (h : channelExists s.params c → s.Outputs (body s)) : s.Outputs (s.withChannel c body) :=
  s.withChannel_cases (s.Outputs ·) c body (fun _ => (s.flag_outputs .chRange).ret 0) h

theorem State.retPixel_outputs (c : Byte) (i : Nat) : s.Outputs (s.retPixel c i) := by
  obtain ⟨v, n, e⟩ := s.retPixel_frame c i
  rw [e]
  exact .silent ⟨rfl, rfl, rfl⟩ rfl rfl

theorem State.icoAddByte_outputs (c b : Byte) : s.Outputs (s.icoAddByte c b) :=
  .silent ⟨s.icoAddByte_params c b, s.icoAddByte_ports c b, s.icoAddByte_trace c b⟩ (s.icoAddByte_tx c b)
    (s.icoAddByte_ev c b)

theorem isMessage_faderUpd {p : Params} {c : Byte} (hc : channelExists p c) (uuid : BitVec 128) (q : Byte) :
    IsMessage p uuid (faderUpdMessage c q) :=
  .inr ⟨c, q, rfl, hc⟩

/-- A sample sends one update or nothing (R204). -/
theorem State.sampleOp_outputs (c : Byte) (raw : BitVec 10) : s.Outputs (s.sampleOp c raw) := by
  apply s.sampleOp_cases (s.Outputs ·) c raw
  case absent => exact fun _ => (s.flag_outputs .chRange).ret 0
  case skipped => exact fun _ _ => s.ret_outputs 0
  case silent => exact fun _ _ _ => .silent ⟨rfl, rfl, rfl⟩ rfl rfl
  case reports =>
    intro hc _ _
    have hset (r : FadRec) : s.Outputs (s.setFad c r) := .silent ⟨rfl, rfl, rfl⟩ rfl rfl
    exact ((hset _).trans (State.sendMessage_outputs _ (isMessage_faderUpd hc _ _))).ret 0

theorem State.hsRespond_outputs : s.Outputs s.hsRespond :=
  s.hsRespond_cases (s.Outputs ·)
    (fun _ => s.sendMessage_outputs (.inl ⟨rfl, announcement_length _ _⟩)) (fun _ => s.flag_outputs .noId)

/-! ## The parser -/

theorem clampVolume_le (v : Byte) : (clampVolume v).toNat ≤ 100 := by
  simp only [clampVolume, Config.volMax, BitVec.toNat_ofNat]
  omega

/-- The end of a frame delivers one event or none (R134). -/
theorem State.rxDone_outputs : s.Outputs s.rxDone := by
  apply s.rxDone_cases (s.Outputs ·)
  case text =>
    exact fun hc _ => (s.emit_outputs (e := .appName _ _) ⟨hc, Vector.length_toList⟩).trans (State.setRx_outputs _ _)
  case volume =>
    exact fun hc _ _ => (s.emit_outputs (e := .volume _ _) ⟨hc, clampVolume_le _⟩).trans (State.setRx_outputs _ _)
  case silent => exact fun _ => s.setRx_outputs _

theorem State.rxAdvance_outputs : s.Outputs s.rxAdvance :=
  s.rxAdvance_cases (s.Outputs ·) (fun _ => s.setRx_outputs _)
    (fun _ => (s.setRx_outputs _).trans (State.rxDone_outputs _))

theorem State.rxChannel_outputs (b : Byte) : s.Outputs (s.rxChannel b) :=
  .silent ⟨s.rxChannel_params b, s.rxChannel_ports b, s.rxChannel_trace b⟩ (s.rxChannel_tx b) (s.rxChannel_ev b)

theorem State.rxData_outputs (b : Byte) : s.Outputs (s.rxData b) :=
  .silent ⟨s.rxData_params b, s.rxData_ports b, s.rxData_trace b⟩ (s.rxData_tx b) (s.rxData_ev b)

theorem State.rxByteOp_outputs (b : Byte) : s.Outputs (s.rxByteOp b) := by
  apply s.rxByteOp_cases (s.Outputs ·)
  case request => exact fun _ _ => s.hsRespond_outputs.ret 0
  case opens => exact fun _ _ _ => (s.setRx_outputs _).ret 0
  case unknown => exact fun _ _ => (s.flag_outputs .unknownCmd).ret 0
  case channel => exact fun _ _ => ((s.rxChannel_outputs b).trans (State.rxAdvance_outputs _)).ret 0
  case data => exact fun _ _ => ((s.rxData_outputs b).trans (State.rxAdvance_outputs _)).ret 0

/-! ## Every operation -/

/-- FAD.SAMPLE, RX.BYTE and ICO.DRAW put something out; the other operations of the driver are silent. -/
theorem exec_local_outputs (i : Instr) (hi : i.isLocal = true) : ∃ t, exec i s = .next t ∧ s.Outputs t := by
  cases i with
  | nop | statRead => exact ⟨_, rfl, s.ret_outputs _⟩
  | rxByte b => exact ⟨_, rfl, s.rxByteOp_outputs b⟩
  | rxRearm => exact ⟨_, rfl, (s.setRx_outputs _).ret 0⟩
  | icoAddByte ch b => exact ⟨_, rfl, s.withChannel_outputs ch fun _ => (s.icoAddByte_outputs ch b).ret 0⟩
  | icoDraw ch x y =>
    refine ⟨_, rfl, s.withChannel_outputs ch fun hc => ?_⟩
    split
    · exact (s.emit_outputs (e := .drawBitmap ch x y) hc).ret 0
    · exact s.ret_outputs 0
  | icoRdPix ch k => exact ⟨_, rfl, s.withChannel_outputs ch fun _ => s.retPixel_outputs ch _⟩
  | fadSample ch raw => exact ⟨_, rfl, s.sampleOp_outputs ch raw⟩
  | icoStart ch | icoIsReady ch | icoSetPh ch | encTick ch | encGetDelta ch | encWasPressed ch =>
    exact ⟨_, rfl, s.withChannel_outputs ch fun _ => .silent ⟨rfl, rfl, rfl⟩ rfl rfl⟩
  | statClear => exact ⟨_, rfl, .silent ⟨rfl, rfl, rfl⟩ rfl rfl⟩
  | reservedF => exact ⟨_, rfl, (s.flag_outputs .badOp).ret 0⟩
  | _ => cases hi

theorem exec_outputs (i : Instr) : ∃ t, exec i s = .next t ∧ s.Outputs t := by
  refine exec_keeps (s.Outputs ·) ?driver ?announce ?report i s (.silent ⟨rfl, rfl, rfl⟩ rfl rfl)
  case driver =>
    intro t j hj ht
    obtain ⟨u, hu, htu⟩ := exec_local_outputs t j hj
    exact ⟨u, hu, ht.trans htu⟩
  case announce => exact fun t ht => (ht.trans t.hsRespond_outputs).ret 0
  case report =>
    exact fun t ch _ ht => ht.trans (t.withChannel_outputs ch fun hc =>
      (t.sendMessage_outputs (isMessage_faderUpd hc _ _)).ret 0)

/-- Settles O56: what every operation puts out, read at `tx`. -/
theorem txGrowsByWholeMessages : Obligations.TxGrowsByWholeMessages := by
  intro s t i h
  obtain ⟨u, hu, hout⟩ := exec_outputs s i
  cases hu.symm.trans h
  exact hout.tx

/-- Settles O57: what every operation puts out, read at `ev`. -/
theorem evGrowsByWellFormedEvents : Obligations.EvGrowsByWellFormedEvents := by
  intro s t i h
  obtain ⟨u, hu, hout⟩ := exec_outputs s i
  cases hu.symm.trans h
  obtain ⟨es, hev, hes⟩ := hout.ev
  refine ⟨es, hev, fun e he => ?_⟩
  have hwf := hes e he
  cases e with
  | appName | volume | drawBitmap => exact hwf

end Sys2Proof.Machine
end

section
/-! An operation on one channel neither reads nor writes the records of another (R20): it commutes with a replacement
of that channel's records. -/

namespace Sys2Proof.Machine

variable (s : State) {c d : Byte} (e : EncRec) (f : FadRec) (g : IcoRec)

/-! ## The replacement and the accessors -/

@[simp] theorem State.replaceChannel_params : (s.replaceChannel d e f g).params = s.params := rfl
@[simp] theorem State.replaceChannel_mem : (s.replaceChannel d e f g).mem = s.mem := rfl
@[simp] theorem State.replaceChannel_ports : (s.replaceChannel d e f g).ports = s.ports := rfl

@[simp] theorem State.encAt_replaceChannel_same : (s.replaceChannel d e f g).encAt d = e := by
  simp [State.replaceChannel]

@[simp] theorem State.fadAt_replaceChannel_same : (s.replaceChannel d e f g).fadAt d = f := by
  simp [State.replaceChannel]

@[simp] theorem State.icoAt_replaceChannel_same : (s.replaceChannel d e f g).icoAt d = g := by
  simp [State.replaceChannel]

/-- The channel's own records in place of themselves change nothing. -/
@[simp] theorem State.replaceChannel_self (d : Byte) :
    s.replaceChannel d (s.encAt d) (s.fadAt d) (s.icoAt d) = s := by
  simp only [State.replaceChannel, State.setEnc_self, State.setFad_self, State.setIco_self]

section
variable (h : d ≠ c)
include h

theorem State.encAt_replaceChannel_ne : (s.replaceChannel d e f g).encAt c = s.encAt c :=
  State.encAt_setEnc_ne s d c e h.symm

theorem State.fadAt_replaceChannel_ne : (s.replaceChannel d e f g).fadAt c = s.fadAt c :=
  State.fadAt_setFad_ne (s.setEnc d e) d c f h.symm

theorem State.icoAt_replaceChannel_ne : (s.replaceChannel d e f g).icoAt c = s.icoAt c :=
  State.icoAt_setIco_ne ((s.setEnc d e).setFad d f) d c g h.symm

theorem State.setEnc_replaceChannel (r : EncRec) :
    (s.replaceChannel d e f g).setEnc c r = (s.setEnc c r).replaceChannel d e f g := by
  simp only [State.replaceChannel, State.setEnc, State.setFad, State.setIco,
    Vector.set_comm _ _ (BitVec.toNat_ne_iff_ne.2 h)]

theorem State.setFad_replaceChannel (r : FadRec) :
    (s.replaceChannel d e f g).setFad c r = (s.setFad c r).replaceChannel d e f g := by
  simp only [State.replaceChannel, State.setEnc, State.setFad, State.setIco,
    Vector.set_comm _ _ (BitVec.toNat_ne_iff_ne.2 h)]

theorem State.setIco_replaceChannel (r : IcoRec) :
    (s.replaceChannel d e f g).setIco c r = (s.setIco c r).replaceChannel d e f g := by
  simp only [State.replaceChannel, State.setEnc, State.setFad, State.setIco,
    Vector.set_comm _ _ (BitVec.toNat_ne_iff_ne.2 h)]

/-! ## The shared operations -/

omit h in
theorem State.withChannel_replaceChannel {body : State → State}
    (hb : body (s.replaceChannel d e f g) = (body s).replaceChannel d e f g) :
    (s.replaceChannel d e f g).withChannel c body = (s.withChannel c body).replaceChannel d e f g :=
  s.withChannel_cases (fun t => (s.replaceChannel d e f g).withChannel c body = t.replaceChannel d e f g) c body
    (fun hc => State.withChannel_of_absent (s.replaceChannel d e f g) c body hc)
    (fun hc => (State.withChannel_of_exists (s.replaceChannel d e f g) c body hc).trans hb)

omit h in
theorem State.retPixel_replaceChannel (i : Nat) :
    (s.replaceChannel d e f g).retPixel c i = (s.retPixel c i).replaceChannel d e f g := by
  cases hp : Memory.pixelAt s.mem c i with
  | some v => rw [s.retPixel_written c i v hp]; exact State.retPixel_written _ c i v hp
  | none => rw [s.retPixel_unwritten c i hp]; exact State.retPixel_unwritten _ c i hp

theorem State.gate_replaceChannel (q : Byte) :
    (s.replaceChannel d e f g).gate c q = (s.gate c q).replaceChannel d e f g := by
  simp only [State.gate, State.replaceChannel_params, State.fadAt_replaceChannel_ne s e f g h,
    State.setFad_replaceChannel s e f g h, apply_ite (State.replaceChannel · d e f g)]
  rfl

theorem State.sampleOp_replaceChannel (raw : BitVec 10) :
    (s.replaceChannel d e f g).sampleOp c raw = (s.sampleOp c raw).replaceChannel d e f g := by
  refine s.withChannel_replaceChannel e f g ?_
  simp only [State.replaceChannel_ports, State.fadAt_replaceChannel_ne s e f g h,
    State.setFad_replaceChannel s e f g h, State.gate_replaceChannel _ e f g h,
    apply_ite (State.replaceChannel · d e f g)]
  rfl

theorem State.tickOp_replaceChannel (clk dt sw : Bool) :
    (s.replaceChannel d e f g).tickOp c clk dt sw = (s.tickOp c clk dt sw).replaceChannel d e f g := by
  refine s.withChannel_replaceChannel e f g ?_
  simp only [State.replaceChannel_params, State.replaceChannel_ports, State.encAt_replaceChannel_ne s e f g h,
    State.setEnc_replaceChannel s e f g h]
  rfl

theorem State.icoAddByte_replaceChannel (b : Byte) :
    (s.replaceChannel d e f g).icoAddByte c b = (s.icoAddByte c b).replaceChannel d e f g := by
  have hico := State.icoAt_replaceChannel_ne s e f g h
  apply s.icoAddByte_cases (fun t => (s.replaceChannel d e f g).icoAddByte c b = t.replaceChannel d e f g) c b
  case high =>
    intro hp
    rw [State.icoAddByte_high _ c b (hico ▸ hp), hico, State.setIco_replaceChannel s e f g h]
  case store =>
    intro hp hlt
    rw [State.icoAddByte_store _ c b (hico ▸ hp) (hico ▸ hlt), hico]
    exact State.setIco_replaceChannel (s.writePixel c _ _ b) e f g h _
  case full =>
    intro hp hge
    rw [State.icoAddByte_full _ c b (hico ▸ hp) (hico ▸ hge), hico, State.setIco_replaceChannel s e f g h]

/-! ## Every operation with a channel operand -/

theorem exec_replaceChannel {i : Instr} (hi : i.channelOperand = some c) :
    exec i (s.replaceChannel d e f g) = mapNext (State.replaceChannel · d e f g) (exec i s) := by
  cases i with
  | fadSample ch raw => cases hi; exact congrArg _ (s.sampleOp_replaceChannel e f g h raw)
  | encTick ch clk dt sw => cases hi; exact congrArg _ (s.tickOp_replaceChannel e f g h clk dt sw)
  | icoRdPix ch k =>
    cases hi; exact congrArg _ (s.withChannel_replaceChannel e f g (s.retPixel_replaceChannel e f g _))
  | icoAddByte ch b =>
    cases hi
    exact congrArg _ (s.withChannel_replaceChannel e f g
      (congrArg (State.ret · 0) (s.icoAddByte_replaceChannel e f g h b)))
  | icoStart ch | icoSetPh ch v =>
    cases hi
    refine congrArg _ (s.withChannel_replaceChannel e f g ?_)
    simp only [State.icoStart, State.icoAt_replaceChannel_ne s e f g h, State.setIco_replaceChannel s e f g h]
    rfl
  | icoIsReady ch =>
    cases hi
    refine congrArg _ (s.withChannel_replaceChannel e f g ?_)
    rw [State.icoAt_replaceChannel_ne s e f g h]
    rfl
  | icoDraw ch x y =>
    cases hi
    refine congrArg _ (s.withChannel_replaceChannel e f g ?_)
    rw [State.icoAt_replaceChannel_ne s e f g h]
    split
    · rfl
    · rfl
  | encGetDelta ch | encWasPressed ch =>
    cases hi
    refine congrArg _ (s.withChannel_replaceChannel e f g ?_)
    simp only [State.encAt_replaceChannel_ne s e f g h, State.setEnc_replaceChannel s e f g h]
    rfl
  | _ => cases hi

end

/-! ## What the operation leaves of the other channel -/

variable {s} {t : State} {i : Instr}

/-- The operation leaves the records of another channel: it commutes with putting them in place of themselves. -/
theorem exec_records_ne (hi : i.channelOperand = some c) (h : d ≠ c) (ht : exec i s = .next t) :
    t.encAt d = s.encAt d ∧ t.fadAt d = s.fadAt d ∧ t.icoAt d = s.icoAt d := by
  have hcomm := exec_replaceChannel s (s.encAt d) (s.fadAt d) (s.icoAt d) h hi
  rw [State.replaceChannel_self, ht, mapNext, Host.Outcome.next.injEq] at hcomm
  rw [hcomm]
  simp only [State.encAt_replaceChannel_same, State.fadAt_replaceChannel_same, State.icoAt_replaceChannel_same,
    true_and]

/-- What the rejection and the body leave, the operation behind the channel check leaves. -/
theorem State.withChannel_eq {α : Type} (read : State → α) (c : Byte) {body : State → State}
    (absent : read ((s.flag .chRange).ret 0) = read s) (present : read (body s) = read s) :
    read (s.withChannel c body) = read s :=
  s.withChannel_cases (fun t => read t = read s) c body (fun _ => absent) (fun _ => present)

/-- ICO.ADDBYTE alone of these operations stores a pixel, and it is the channel's own. -/
theorem exec_pixelAt_ne (hi : i.channelOperand = some c) (h : d ≠ c) (ht : exec i s = .next t) (k : Nat)
    (hk : k < Config.npix) : Memory.pixelAt t.mem d k = Memory.pixelAt s.mem d k := by
  cases i with
  | icoAddByte ch b =>
    cases hi; cases ht
    exact State.withChannel_eq (fun u => Memory.pixelAt u.mem d k) c rfl (s.icoAddByte_pixelAt_ne c b d k h hk)
  | fadSample ch raw => cases ht; rw [State.sampleOp_mem]
  | icoRdPix ch j =>
    cases ht
    obtain ⟨v, n, e⟩ := s.retPixel_frame ch j.toNat
    exact State.withChannel_eq (fun u => Memory.pixelAt u.mem d k) ch rfl (by rw [e])
  | icoDraw ch x y =>
    cases ht
    refine State.withChannel_eq (fun u => Memory.pixelAt u.mem d k) ch rfl ?_
    split
    · rfl
    · rfl
  | icoStart ch | icoIsReady ch | icoSetPh ch | encTick ch | encGetDelta ch | encWasPressed ch =>
    cases ht
    exact State.withChannel_eq (fun u => Memory.pixelAt u.mem d k) ch rfl rfl
  | _ => cases hi

/-- Settles O53: the operation commutes with the replacement, and so it leaves the records it would replace. -/
theorem channelsAreIsolated : Obligations.ChannelsAreIsolated := by
  intro s i c d e f g hi hne
  refine ⟨exec_replaceChannel s e f g hne hi, fun t ht => ?_⟩
  obtain ⟨henc, hfad, hico⟩ := exec_records_ne hi hne ht
  exact ⟨henc, hfad, hico, fun k hk => exec_pixelAt_ne hi hne ht k hk⟩

end Sys2Proof.Machine
end

section
/-! The flag table (R50, R46, R261): which operation may set and which may clear each flag of a channel and each
sticky bit of STATUS; and that every operation keeps to it. -/

namespace Sys2Proof.Machine

/-! ## The table -/

/-- The flags of one channel, and the sticky bits of STATUS. -/
inductive Flag where
  | pressed
  | ready
  | placeholder
  | valid
  | sentValid
  | sticky (k : Cond)

def State.flagAt (s : State) (c : Byte) : Flag → Bool
  | .pressed => (s.encAt c).btnPressed
  | .ready => (s.icoAt c).ready
  | .placeholder => (s.icoAt c).placeholder
  | .valid => (s.fadAt c).valid
  | .sentValid => (s.fadAt c).sentValid
  | .sticky k => s.status.getLsbD k.code

/-- The column "set by", for the flags of channel `c`. -/
def Flag.SetBy (i : Instr) (c : Byte) : Flag → Prop
  | .pressed => (∃ clk dt sw, i = .encTick c clk dt sw) ∨ ∃ inputs, i = .tick inputs
  | .ready => (∃ b, i = .icoAddByte c b) ∨ (∃ bytes, i = .icoStream c bytes) ∨ i.feedsParser = true
  | .placeholder => i = .icoSetPh c true
  | .valid | .sentValid => (∃ raw, i = .fadSample c raw) ∨ ∃ inputs, i = .tick inputs
  | .sticky .unknownCmd => i.feedsParser = true
  | .sticky .chRange =>
    i.channelOperand.isSome = true ∨ i.feedsParser = true ∨ (∃ inputs, i = .tick inputs) ∨
      (∃ ch bytes, i = .icoStream ch bytes) ∨ ∃ ch position, i = .faderUpd ch position
  | .sticky .noId => i.feedsParser = true ∨ i = .hsResp
  | .sticky .badOp => i = .reservedF

/-- The column "cleared by", for the flags of channel `c`. -/
def Flag.ClearedBy (i : Instr) (c : Byte) : Flag → Prop
  | .pressed => i = .encWasPressed c
  | .ready => i = .icoStart c ∨ i.feedsParser = true
  | .placeholder => i = .icoSetPh c false ∨ i = .icoStart c ∨ i.feedsParser = true
  | .valid | .sentValid => False
  | .sticky _ => i = .statClear

/-! ## One flag -/

/-- A flag goes from `a` to `b`, up only if it may be set and down only if it may be cleared. -/
structure Moves (set clear : Prop) (a b : Bool) : Prop where
  down : a = true → b = false → clear
  up : a = false → b = true → set

variable {set clear : Prop} {a b : Bool}

theorem Moves.of_eq (h : b = a) : Moves set clear a b := by
  subst h
  exact ⟨fun h h' => absurd (h.symm.trans h') nofun, fun h h' => absurd (h.symm.trans h') nofun⟩

theorem Moves.trans {c : Bool} (h : Moves set clear a b) (h' : Moves set clear b c) : Moves set clear a c := by
  cases b with
  | false => exact ⟨fun ha _ => h.down ha rfl, fun _ hc => h'.up rfl hc⟩
  | true => exact ⟨fun _ hc => h'.down rfl hc, fun ha _ => h.up ha rfl⟩

theorem Moves.to_true (h : set) : Moves set clear a true := ⟨nofun, fun _ _ => h⟩

theorem Moves.to_false (h : clear) : Moves set clear a false := ⟨fun _ _ => h, nofun⟩

theorem Moves.or (h : set) (x : Bool) : Moves set clear a (a || x) := by
  cases x with
  | false => exact .of_eq (Bool.or_false a)
  | true => exact (Bool.or_true a).symm ▸ .to_true h

/-! ## What each update needs -/

/-- From the first state to the second, each flag has gone up only if `i` may set it, and down only if `i` may clear
it. -/
def KeepsTable (i : Instr) (c : Byte) (s t : State) : Prop :=
  ∀ k : Flag, Moves (k.SetBy i c) (k.ClearedBy i c) (s.flagAt c k) (t.flagAt c k)

variable {i : Instr} {c ch : Byte} {s t u : State}

theorem KeepsTable.of_eq (h : t.flagAt c = s.flagAt c) : KeepsTable i c s t := fun k => .of_eq (congrFun h k)

theorem KeepsTable.trans (h : KeepsTable i c s t) (h' : KeepsTable i c t u) : KeepsTable i c s u :=
  fun k => (h k).trans (h' k)

/-- Two states with the same channel records and sticky bits have the same flags. -/
theorem State.flagAt_congr (henc : t.encAt c = s.encAt c) (hfad : t.fadAt c = s.fadAt c) (hico : t.icoAt c = s.icoAt c)
    (hstatus : t.status = s.status) : t.flagAt c = s.flagAt c := by
  funext k
  cases k <;> simp only [State.flagAt, henc, hfad, hico, hstatus]

theorem KeepsTable.ret (h : KeepsTable i c s t) (v : Word) : KeepsTable i c s (t.ret v) :=
  h.trans (.of_eq (State.flagAt_congr rfl rfl rfl rfl))

/-- Each sticky bit is the bit of a condition (R261). -/
theorem Cond.exists_code_eq {k : Nat} (h : k < 4) : ∃ j : Cond, j.code = k := by
  match k, h with
  | 0, _ => exact ⟨.unknownCmd, rfl⟩
  | 1, _ => exact ⟨.chRange, rfl⟩
  | 2, _ => exact ⟨.noId, rfl⟩
  | 3, _ => exact ⟨.badOp, rfl⟩

theorem Cond.code_injective {k l : Cond} (h : k.code = l.code) : k = l := by
  revert h
  cases k <;> cases l <;> decide

theorem keepsTable_flag {k : Cond} (h : Flag.SetBy i c (.sticky k)) : KeepsTable i c s (s.flag k) := by
  intro j
  cases j with
  | sticky l =>
    by_cases hl : l = k
    · subst hl
      refine ⟨fun hold hnew => ?_, fun _ _ => h⟩
      exact absurd ((stickySet_keeps l _ _ hold).symm.trans hnew) nofun
    · exact .of_eq (stickySet_getLsbD_ne k s.status l.code fun e => hl (Cond.code_injective e))
  | _ => exact .of_eq rfl

theorem keepsTable_setEnc {r : EncRec}
    (h : c = ch → Moves (Flag.SetBy i c .pressed) (Flag.ClearedBy i c .pressed) (s.encAt c).btnPressed r.btnPressed) :
    KeepsTable i c s (s.setEnc ch r) := by
  by_cases hc : c = ch
  · subst hc
    intro k
    cases k with
    | pressed => simpa only [State.flagAt, State.encAt_setEnc_same] using h rfl
    | _ => exact .of_eq rfl
  · exact .of_eq (State.flagAt_congr (s.encAt_setEnc_ne ch c r hc) rfl rfl rfl)

theorem keepsTable_setFad {r : FadRec}
    (h : c = ch → Moves (Flag.SetBy i c .valid) (Flag.ClearedBy i c .valid) (s.fadAt c).valid r.valid ∧
      Moves (Flag.SetBy i c .sentValid) (Flag.ClearedBy i c .sentValid) (s.fadAt c).sentValid r.sentValid) :
    KeepsTable i c s (s.setFad ch r) := by
  by_cases hc : c = ch
  · subst hc
    obtain ⟨hvalid, hsent⟩ := h rfl
    intro k
    cases k with
    | valid => simpa only [State.flagAt, State.fadAt_setFad_same] using hvalid
    | sentValid => simpa only [State.flagAt, State.fadAt_setFad_same] using hsent
    | _ => exact .of_eq rfl
  · exact .of_eq (State.flagAt_congr rfl (s.fadAt_setFad_ne ch c r hc) rfl rfl)

theorem keepsTable_setIco {r : IcoRec}
    (h : c = ch → Moves (Flag.SetBy i c .ready) (Flag.ClearedBy i c .ready) (s.icoAt c).ready r.ready ∧
      Moves (Flag.SetBy i c .placeholder) (Flag.ClearedBy i c .placeholder) (s.icoAt c).placeholder r.placeholder) :
    KeepsTable i c s (s.setIco ch r) := by
  by_cases hc : c = ch
  · subst hc
    obtain ⟨hready, hplaceholder⟩ := h rfl
    intro k
    cases k with
    | ready => simpa only [State.flagAt, State.icoAt_setIco_same] using hready
    | placeholder => simpa only [State.flagAt, State.icoAt_setIco_same] using hplaceholder
    | _ => exact .of_eq rfl
  · exact .of_eq (State.flagAt_congr rfl rfl (s.icoAt_setIco_ne ch c r hc) rfl)

/-! ## The shared operations -/

theorem keepsTable_withChannel {body : State → State} (hflag : Flag.SetBy i c (.sticky .chRange))
    (h : KeepsTable i c s (body s)) : KeepsTable i c s (s.withChannel ch body) :=
  s.withChannel_cases (KeepsTable i c s) ch body (fun _ => (keepsTable_flag hflag).ret 0) (fun _ => h)

theorem keepsTable_tickOp (hflag : Flag.SetBy i c (.sticky .chRange)) (hset : c = ch → Flag.SetBy i c .pressed)
    (clk dt sw : Bool) : KeepsTable i c s (s.tickOp ch clk dt sw) :=
  keepsTable_withChannel hflag ((keepsTable_setEnc fun hc => by subst hc; exact .or (hset rfl) _).ret 0)

theorem keepsTable_sampleOp (hflag : Flag.SetBy i c (.sticky .chRange)) (hset : c = ch → Flag.SetBy i c .valid)
    (raw : BitVec 10) : KeepsTable i c s (s.sampleOp ch raw) := by
  apply s.sampleOp_cases (KeepsTable i c s) ch raw
  case absent => exact fun _ => (keepsTable_flag hflag).ret 0
  case skipped => exact fun _ _ => .of_eq rfl
  case silent =>
    exact fun _ _ _ => (keepsTable_setFad fun hc => ⟨.to_true (hset hc), by subst hc; exact .of_eq rfl⟩).ret 0
  case reports =>
    exact fun _ _ _ => (keepsTable_setFad fun hc => ⟨.to_true (hset hc), .to_true (hset hc)⟩).trans (.of_eq rfl)

theorem keepsTable_icoStart (hready : c = ch → Flag.ClearedBy i c .ready)
    (hplaceholder : c = ch → Flag.ClearedBy i c .placeholder) : KeepsTable i c s (s.icoStart ch) :=
  keepsTable_setIco fun hc => ⟨.to_false (hready hc), .to_false (hplaceholder hc)⟩

theorem keepsTable_icoAddByte (hset : c = ch → Flag.SetBy i c .ready) (b : Byte) :
    KeepsTable i c s (s.icoAddByte ch b) := by
  apply s.icoAddByte_cases (KeepsTable i c s) ch b
  case high => exact fun _ => keepsTable_setIco fun hc => by subst hc; exact ⟨.of_eq rfl, .of_eq rfl⟩
  case store =>
    intro _ _
    have hwrite (j : Nat) (hi : Byte) : KeepsTable i c s (s.writePixel ch j hi b) := .of_eq rfl
    exact (hwrite _ _).trans (keepsTable_setIco fun hc => by subst hc; exact ⟨.or (hset rfl) _, .of_eq rfl⟩)
  case full => exact fun _ _ => keepsTable_setIco fun hc => by subst hc; exact ⟨.of_eq rfl, .of_eq rfl⟩

theorem keepsTable_addByteOp (hflag : Flag.SetBy i c (.sticky .chRange)) (hset : c = ch → Flag.SetBy i c .ready)
    (b : Byte) : KeepsTable i c s (s.addByteOp ch b) :=
  keepsTable_withChannel hflag ((keepsTable_icoAddByte hset b).ret 0)

theorem keepsTable_hsRespond (hflag : Flag.SetBy i c (.sticky .noId)) : KeepsTable i c s s.hsRespond :=
  s.hsRespond_cases (KeepsTable i c s) (fun _ => .of_eq rfl) (fun _ => keepsTable_flag hflag)

/-! ## The parser -/

theorem keepsTable_rxAdvance : KeepsTable i c s s.rxAdvance :=
  .of_eq (State.flagAt_congr (s.rxAdvance_encAt c) (s.rxAdvance_fadAt c) (s.rxAdvance_icoAt c) s.rxAdvance_status)

section
variable (hi : i.feedsParser = true)
include hi

theorem keepsTable_rxChannel (b : Byte) : KeepsTable i c s (s.rxChannel b) := by
  have hset (r : ParserRec) : KeepsTable i c s (s.setRx r) := .of_eq rfl
  apply s.rxChannel_cases (KeepsTable i c s)
  case absent => exact fun _ => (hset _).trans (keepsTable_flag (.inr (.inl hi)))
  case icon => exact fun _ _ => (hset _).trans (keepsTable_icoStart (fun _ => .inr hi) (fun _ => .inr (.inr hi)))
  case short => exact fun _ _ => hset _

theorem keepsTable_rxData (b : Byte) : KeepsTable i c s (s.rxData b) :=
  s.rxData_cases (KeepsTable i c s) b (fun _ => .of_eq rfl) (fun _ _ => .of_eq rfl)
    (fun _ _ _ _ => keepsTable_icoAddByte (fun _ => .inr (.inr hi)) b) (fun _ _ _ => .of_eq rfl)

theorem keepsTable_rxByteOp (b : Byte) : KeepsTable i c s (s.rxByteOp b) := by
  apply s.rxByteOp_cases (KeepsTable i c s)
  case request => exact fun _ _ => (keepsTable_hsRespond (.inl hi)).ret 0
  case opens => exact fun _ _ _ => .of_eq rfl
  case unknown => exact fun _ _ => (keepsTable_flag (k := .unknownCmd) hi).ret 0
  case channel => exact fun _ _ => ((keepsTable_rxChannel hi b).trans keepsTable_rxAdvance).ret 0
  case data => exact fun _ _ => ((keepsTable_rxData hi b).trans keepsTable_rxAdvance).ret 0

theorem keepsTable_rxBytes (bytes : List Byte) : KeepsTable i c s (s.rxBytes bytes) :=
  s.rxBytes_keeps (KeepsTable i c s) (fun _ b h => h.trans (keepsTable_rxByteOp hi b)) bytes (.of_eq rfl)

end

/-! ## Every operation -/

theorem exec_keepsTable (h : exec i s = .next t) (c : Byte) : KeepsTable i c s t := by
  cases i with
  | nop | statRead | rxRearm => cases h; exact .of_eq rfl
  | rxByte b => cases h; exact keepsTable_rxByteOp rfl b
  | hsReq | appName | volume | icon | unrecognised | rxFrame => cases h; exact keepsTable_rxBytes rfl _
  | icoStart ch =>
    cases h
    refine keepsTable_withChannel (.inl rfl) ((keepsTable_icoStart ?_ ?_).ret 0)
    · rintro rfl; exact .inl rfl
    · rintro rfl; exact .inr (.inl rfl)
  | icoAddByte ch b =>
    cases h
    exact keepsTable_addByteOp (.inl rfl) (fun hc => .inl ⟨b, hc ▸ rfl⟩) b
  | icoIsReady ch => cases h; exact keepsTable_withChannel (.inl rfl) (.of_eq rfl)
  | icoSetPh ch v =>
    cases h
    refine keepsTable_withChannel (.inl rfl) ((keepsTable_setIco fun hc => ?_).ret 0)
    subst hc
    refine ⟨.of_eq rfl, ?_⟩
    cases v with
    | false => exact .to_false (.inl rfl)
    | true => exact .to_true rfl
  | icoDraw ch x y =>
    cases h
    refine keepsTable_withChannel (.inl rfl) ?_
    split
    · exact .of_eq rfl
    · exact .of_eq rfl
  | icoRdPix ch k =>
    cases h
    obtain ⟨v, n, e⟩ := s.retPixel_frame ch k.toNat
    exact keepsTable_withChannel (.inl rfl) (by rw [e]; exact .of_eq rfl)
  | fadSample ch raw => cases h; exact keepsTable_sampleOp (.inl rfl) (fun hc => .inl ⟨raw, hc ▸ rfl⟩) raw
  | encTick ch clk dt sw =>
    cases h
    exact keepsTable_tickOp (.inl rfl) (fun hc => .inl ⟨clk, dt, sw, hc ▸ rfl⟩) clk dt sw
  | encGetDelta ch =>
    cases h
    exact keepsTable_withChannel (.inl rfl) ((keepsTable_setEnc fun hc => by subst hc; exact .of_eq rfl).ret _)
  | encWasPressed ch =>
    cases h
    exact keepsTable_withChannel (.inl rfl) ((keepsTable_setEnc fun hc => .to_false (hc ▸ rfl)).ret _)
  | statClear =>
    cases h
    intro k
    cases k with
    | sticky k => exact ⟨fun _ _ => rfl, fun _ hnew => absurd hnew (by simp [State.flagAt])⟩
    | _ => exact .of_eq rfl
  | reservedF => cases h; exact (keepsTable_flag (k := .badOp) rfl).ret 0
  | hsResp => cases h; exact (keepsTable_hsRespond (.inr rfl)).ret 0
  | faderUpd ch position =>
    cases h
    exact keepsTable_withChannel (.inr (.inr (.inr (.inr ⟨ch, position, rfl⟩)))) (.of_eq rfl)
  | tick inputs =>
    cases h
    have hflag : Flag.SetBy (.tick inputs) c (.sticky .chRange) := .inr (.inr (.inl ⟨inputs, rfl⟩))
    exact State.tickAll_keeps _ (KeepsTable (.tick inputs) c s)
      (fun _ _ _ _ _ hu => hu.trans (keepsTable_tickOp hflag (fun _ => .inr ⟨inputs, rfl⟩) _ _ _)) 0 inputs
      (s.sampleAll_keeps (KeepsTable (.tick inputs) c s)
        (fun _ _ _ hu => hu.trans (keepsTable_sampleOp hflag (fun _ => .inr ⟨inputs, rfl⟩) _)) 0 inputs (.of_eq rfl))
  | icoStream ch bytes =>
    cases h
    have hflag : Flag.SetBy (.icoStream ch bytes) c (.sticky .chRange) := .inr (.inr (.inr (.inl ⟨ch, bytes, rfl⟩)))
    exact s.addBytes_keeps (KeepsTable (.icoStream ch bytes) c s) ch
      (fun _ b hu => hu.trans (keepsTable_addByteOp hflag (fun hc => .inr (.inl ⟨bytes, hc ▸ rfl⟩)) b)) bytes
      (.of_eq rfl)

/-- Settles O54: the table, read flag by flag. -/
theorem flagsChangeOnlyAsTabulated : Obligations.FlagsChangeOnlyAsTabulated := by
  intro s t i c h
  have hmoves := exec_keepsTable h c
  have hkept {a b : Bool} {set : Prop} (hm : Moves set False a b) (ha : a = true) : b = true :=
    Bool.eq_true_of_not_eq_false (hm.down ha)
  refine ⟨(hmoves .pressed).down, (hmoves .pressed).up, (hmoves .ready).down, (hmoves .ready).up,
    (hmoves .placeholder).down, (hmoves .placeholder).up, hkept (hmoves .valid), hkept (hmoves .sentValid), ?_, ?_,
    (hmoves (.sticky .unknownCmd)).up, (hmoves (.sticky .chRange)).up, (hmoves (.sticky .noId)).up,
    (hmoves (.sticky .badOp)).up⟩
  · rintro (⟨hold, hnew⟩ | ⟨hold, hnew⟩)
    · exact (hmoves .valid).up hold hnew
    · exact (hmoves .sentValid).up hold hnew
  · intro k hold hnew
    obtain ⟨j, rfl⟩ := Cond.exists_code_eq (BitVec.lt_of_getLsbD hold)
    exact (hmoves (.sticky j)).down hold hnew

end Sys2Proof.Machine
end

section
/-! R70: the operations that issued twice do what they do once, and the reads that change nothing but the result. -/

namespace Sys2Proof.Machine

variable {s t : State} {i : Instr} (c : Byte)

/-! ## Operations issued twice -/

/-- A sticky bit stays set when its condition is met again. -/
@[simp] theorem stickySet_stickySet (k : Cond) (bits : BitVec 4) :
    stickySet k (stickySet k bits) = stickySet k bits := by
  simp [stickySet, BitVec.or_assoc]

@[simp] theorem State.flag_flag (k : Cond) : (s.flag k).flag k = s.flag k := by simp [State.flag]

@[simp] theorem State.flag_ret (k : Cond) (v : Word) : (s.ret v).flag k = (s.flag k).ret v := rfl

@[simp] theorem State.setIco_ret (r : IcoRec) (v : Word) : (s.ret v).setIco c r = (s.setIco c r).ret v := rfl

/-- The channel check rejects or accepts both times alike, and a rejection flags the same bit again. -/
theorem State.withChannel_withChannel {body : State → State} (hparams : (body s).params = s.params)
    (hbody : body (body s) = body s) : (s.withChannel c body).withChannel c body = s.withChannel c body := by
  refine s.withChannel_cases (fun u => u.withChannel c body = u) c body (fun hc => ?_) (fun hc => ?_)
  · rw [State.withChannel_of_absent ((s.flag .chRange).ret 0) c body hc]
    simp
  · rw [State.withChannel_of_exists (body s) c body (hparams ▸ hc), hbody]

theorem exec_icoStart_twice (h : exec (.icoStart c) s = .next t) : exec (.icoStart c) t = .next t := by
  cases h
  exact congrArg Host.Outcome.next (State.withChannel_withChannel c rfl (by simp [State.icoStart]))

theorem exec_icoSetPh_twice (v : Bool) (h : exec (.icoSetPh c v) s = .next t) : exec (.icoSetPh c v) t = .next t := by
  cases h
  exact congrArg Host.Outcome.next (State.withChannel_withChannel c rfl (by simp))

theorem exec_statClear_twice (h : exec .statClear s = .next t) : exec .statClear t = .next t := by
  cases h
  rfl

theorem exec_rxRearm_twice (h : exec .rxRearm s = .next t) : exec .rxRearm t = .next t := by
  cases h
  rfl

/-! ## Reads: what they return does not depend on the result port, and they write nothing else -/

theorem exec_statRead_ret (w : Word) :
    exec .statRead (s.ret w) = .next (s.ret (statusWord s.rx.active s.status)) := rfl

theorem exec_icoIsReady_ret (hc : channelExists s.params c) (w : Word) :
    exec (.icoIsReady c) (s.ret w) = .next (s.ret (flagResult (iconShown (s.icoAt c)))) :=
  congrArg _ ((s.ret w).withChannel_of_exists c _ hc)

theorem exec_icoRdPix_ret {k : BitVec 12} {v : Pixel} (hc : channelExists s.params c)
    (hv : Memory.pixelAt s.mem c k.toNat = some v) (w : Word) :
    exec (.icoRdPix c k) (s.ret w) = .next (s.ret (pixelResult v)) :=
  congrArg _ (((s.ret w).withChannel_of_exists c _ hc).trans ((s.ret w).retPixel_written c k.toNat v hv))

/-- An operation that answers the same word whatever stands on the result port, and writes nothing else, changes
nothing but the result and answers the same again. -/
theorem exec_eq_of_read {v : Word} (hread : ∀ w, exec i (s.ret w) = .next (s.ret v)) (h : exec i s = .next t) :
    t = { s with res := t.res } ∧ exec i t = .next t := by
  have ht : Host.Outcome.next t = .next (s.ret v) := h.symm.trans (hread s.res)
  cases ht
  exact ⟨rfl, hread v⟩

/-- Settles O58: the four operations are their own repetition, the three reads answer the same word again. -/
theorem idempotentOperations : Obligations.IdempotentOperations := by
  refine ⟨fun s t i h hi => ?_, fun s t i h hi => ?_⟩
  · rcases hi with ⟨ch, rfl⟩ | ⟨ch, v, rfl⟩ | rfl | rfl
    · exact exec_icoStart_twice ch h
    · exact exec_icoSetPh_twice ch v h
    · exact exec_statClear_twice h
    · exact exec_rxRearm_twice h
  · rcases hi with rfl | ⟨ch, rfl, hc⟩ | ⟨ch, k, rfl, hc, hwritten⟩
    · exact exec_eq_of_read exec_statRead_ret h
    · exact exec_eq_of_read (exec_icoIsReady_ret ch hc) h
    · obtain ⟨v, hv⟩ := Option.isSome_iff_exists.1 hwritten
      exact exec_eq_of_read (exec_icoRdPix_ret ch hc hv) h

end Sys2Proof.Machine
end

section
/-! Encodings read back (R104 to R106, R110); inbound wire commands and pseudo-operations are the runs of their bytes
and members (R90, R110, R254). -/

namespace Sys2Proof.Machine

/-- Settles O43: the members of a well-formed operation each have a request, and it decodes to the member. -/
theorem decodeReadsBackEveryEncoding : Obligations.DecodeReadsBackEveryEncoding :=
  fun _ _ hp hi => map_decode_encode hp hi

/-- A whole inbound frame is its bytes through the parser. -/
theorem exec_frame (s : State) {i : Instr} (hi : i.isFrame = true) :
    exec i s = .next (s.rxBytes (frameBytes s.params i)) := by
  cases i with
  | hsReq | appName | volume | icon => rfl
  | _ => cases hi

/-- Settles O36: the parser's fold over the bytes of a frame is the run of their RX.BYTE. -/
theorem wireCommandsAreTheirBytes : Obligations.WireCommandsAreTheirBytes :=
  fun s _ hi => ⟨_, exec_frame s hi, runOps_rxBytes s _⟩

/-- Settles O40: an operation is the run of its members. -/
theorem pseudoOperationsAreTheirMembers : Obligations.PseudoOperationsAreTheirMembers :=
  ⟨fun s inputs => ⟨_, rfl, runOps_expand (.tick inputs) s⟩,
    fun s bytes => ⟨_, rfl, runOps_expand (.rxFrame bytes) s⟩,
    fun s ch bytes => ⟨_, rfl, runOps_expand (.icoStream ch bytes) s⟩⟩

end Sys2Proof.Machine
end

section
/-! Every word and every burst of bytes stands for a well-formed operation (R102, R105, R108). -/

namespace Sys2Proof

/-- The sixteen operations of the driver are well-formed whatever their operands. -/
theorem decodeWord_wf (p : Params) (w : Word) : (decodeWord w).wf p = true := by
  unfold decodeWord
  split <;> rfl

/-- A burst of one byte is the handshake request, the opening of a frame or an unrecognised byte. -/
theorem decodeBurst_singleton_wf (p : Params) (cmd : Byte) :
    ∃ i, decodeBurst p [cmd] = .ok i ∧ i.wf p = true := by
  simp only [decodeBurst]
  split
  · exact ⟨_, rfl, rfl⟩
  · next hreq =>
    split
    · exact ⟨_, rfl, rfl⟩
    · next hframed => exact ⟨_, rfl, by simpa [Instr.wf] using not_or.2 ⟨hreq, hframed⟩⟩

/-- A burst of three bytes or more is a whole frame when it has the length of its command, and else RX.FRAME. -/
theorem decodeBurst_cons_cons_cons_wf (p : Params) (cmd ch b : Byte) (rest : List Byte) :
    ∃ i, decodeBurst p (cmd :: ch :: b :: rest) = .ok i ∧ i.wf p = true := by
  simp only [decodeBurst]
  split
  · next happ => exact ⟨_, rfl, beq_iff_eq.2 happ.2⟩
  · split
    · exact ⟨_, rfl, rfl⟩
    · split
      · next hicon => exact ⟨_, rfl, beq_iff_eq.2 hicon.2⟩
      · exact ⟨_, rfl, rfl⟩

/-- Settles O45: the decoder's cases, by the number of bytes of the burst. -/
theorem everyWordAndByteDecodes : Obligations.EveryWordAndByteDecodes := by
  refine ⟨fun p w => ⟨_, rfl, decodeWord_wf p w⟩, fun p b bytes => ?_⟩
  match bytes with
  | [] => exact decodeBurst_singleton_wf p b
  | [_] => exact ⟨_, rfl, rfl⟩
  | b1 :: b2 :: rest => exact decodeBurst_cons_cons_cons_wf p b b1 b2 rest

/-- Settles O42: the decoder evaluated on each word. -/
theorem specWordsDecode : Obligations.SpecWordsDecode := by
  unfold Obligations.SpecWordsDecode
  decide

end Sys2Proof
end

section
/-! The encoder puts every operand back where the decoder took it from (R104 to R106, R108). -/

namespace Sys2Proof

/-- Every word is made of its three fields. -/
theorem mkWord_fields (w : Word) : mkWord (opCode w) (opCh w) (opArg w) = w := by
  apply BitVec.eq_of_getLsbD_eq
  intro j hj
  rw [getLsbD_mkWord]
  simp only [opCode, opCh, opArg, BitVec.getLsbD_extractLsb']
  split
  · simp [*]
  · split
    · have hsum : 20 + (j - 20) = j := by omega
      have hlt : j - 20 < 8 := by omega
      simp [hsum, hlt]
    · have hsum : 28 + (j - 28) = j := by omega
      have hlt : j - 28 < 4 := by omega
      simp [hsum, hlt]

/-- A mask of an operation word masks each field by itself. -/
theorem mkWord_and (code code' : BitVec 4) (ch ch' : Byte) (arg arg' : BitVec 20) :
    mkWord code ch arg &&& mkWord code' ch' arg' = mkWord (code &&& code') (ch &&& ch') (arg &&& arg') := by
  apply BitVec.eq_of_getLsbD_eq
  intro j hj
  simp only [BitVec.getLsbD_and, getLsbD_mkWord]
  split
  · rfl
  · split <;> rfl

/-! ## The operand masks (R106) -/

/-- The low `m` bits of an operand field, the rest 0. -/
theorem append_extractLsb'_zero {n m : Nat} (a : BitVec (n + m)) :
    0#n ++ a.extractLsb' 0 m = a &&& (0#n ++ BitVec.allOnes m) := by
  apply BitVec.eq_of_getLsbD_eq
  intro j hj
  simp only [BitVec.getLsbD_append, BitVec.getLsbD_and, BitVec.getLsbD_extractLsb', BitVec.getLsbD_allOnes]
  split <;> simp [*]

/-- The lowest bit of an operand field, the rest 0. -/
theorem append_ofBool_argBit (a : BitVec 20) : 0#19 ++ BitVec.ofBool (argBit a 0) = a &&& 1 := by
  have : (1 : BitVec 20) = 0#19 ++ BitVec.ofBool true := rfl
  rw [this]
  apply BitVec.eq_of_getLsbD_eq
  intro j hj
  simp only [BitVec.getLsbD_and, getLsbD_append_ofBool, argBit]
  split <;> simp [*]

/-- The three lowest bits of an operand field, the rest 0. -/
theorem append_ofBool_argBits (a : BitVec 20) :
    0#17 ++ BitVec.ofBool (argBit a 2) ++ BitVec.ofBool (argBit a 1) ++ BitVec.ofBool (argBit a 0) = a &&& 7 := by
  have : (7 : BitVec 20) = 0#17 ++ BitVec.ofBool true ++ BitVec.ofBool true ++ BitVec.ofBool true := rfl
  rw [this]
  apply BitVec.eq_of_getLsbD_eq
  intro j hj
  simp only [BitVec.getLsbD_and, getLsbD_append_ofBool, argBit]
  match j with
  | 0 | 1 | 2 => simp
  | j + 3 => simp

/-- The two operands of ICO.DRAW fill the operand field. -/
theorem argHigh10_append_argLow10 (a : BitVec 20) : argHigh10 a ++ argLow10 a = a := by
  apply BitVec.eq_of_getLsbD_eq
  intro j hj
  simp only [argHigh10, argLow10, BitVec.getLsbD_append, BitVec.getLsbD_extractLsb', Nat.zero_add]
  split
  · simp [*]
  · have hsum : 10 + (j - 10) = j := by omega
    have hlt : j - 10 < 10 := by omega
    simp [hsum, hlt]

/-- A word with the code kept and the channel and the operand field masked is the word under the joined mask. -/
theorem word_eq_and (code : BitVec 4) {ch ch' n : Byte} {arg arg' k : BitVec 20} {mask : Word}
    (hmask : mask = mkWord 0xF n k) (hch : ch' = ch &&& n) (harg : arg' = arg &&& k) :
    some (Request.word (mkWord code ch' arg')) = some (.word (mkWord code ch arg &&& mask)) := by
  have hcode : code &&& 0xF = code := BitVec.and_allOnes
  rw [hmask, mkWord_and, hcode, hch, harg]

/-- Settles O44: the word is taken apart into its fields, and each code's operands are its masked fields. -/
theorem encodeKeepsExactlyTheUsedBits : Obligations.EncodeKeepsExactlyTheUsedBits := by
  intro p w
  have unused {n : Nat} (x : BitVec n) : 0 = x &&& 0 := BitVec.and_zero.symm
  have channel (ch : Byte) : ch = ch &&& 0xFF := BitVec.and_allOnes.symm
  rw [← mkWord_fields w]
  generalize opCode w = code, opCh w = ch, opArg w = arg
  simp only [decodeWord, opCode_mkWord, opCh_mkWord, opArg_mkWord]
  obtain ⟨⟨k, hk⟩⟩ := code
  -- one case per code of R105, grouped by the fields R106 gives the operation
  match k, hk with
  | 0, _ | 2, _ | 13, _ | 14, _ | 15, _ => exact word_eq_and _ rfl (unused ch) (unused arg)
  | 3, _ | 5, _ | 11, _ | 12, _ => exact word_eq_and _ rfl (channel ch) (unused arg)
  | 1, _ => exact word_eq_and _ rfl (unused ch) (append_extractLsb'_zero (n := 12) (m := 8) arg)
  | 4, _ => exact word_eq_and _ rfl (channel ch) (append_extractLsb'_zero (n := 12) (m := 8) arg)
  | 6, _ => exact word_eq_and _ rfl (channel ch) (append_ofBool_argBit arg)
  | 7, _ =>
    have all : arg = arg &&& 0xFFFFF := BitVec.and_allOnes.symm
    exact word_eq_and _ rfl (channel ch) ((argHigh10_append_argLow10 arg).trans all)
  | 8, _ => exact word_eq_and _ rfl (channel ch) (append_extractLsb'_zero (n := 8) (m := 12) arg)
  | 9, _ => exact word_eq_and _ rfl (channel ch) (append_extractLsb'_zero (n := 10) (m := 10) arg)
  | 10, _ => exact word_eq_and _ rfl (channel ch) (append_ofBool_argBits arg)
  | _ + 16, hk => omega

end Sys2Proof
end

section
/-! The messages a driver can ask for, and the payload bytes of a frame in progress (R94, R95, R103). -/

namespace Sys2Proof.Machine

variable (s : State)

/-- Byte `k` of the identifier stands at position `11 + k`, after the command byte, the tag and the device type. -/
theorem announcement_getElem?_uuid (p : Params) (uuid : BitVec 128) {k : Nat} (hk : k < 16) :
    (announcement p uuid)[11 + k]? = some (uuid.extractLsb' (8 * k) 8) := by
  rw [announcement, List.getElem?_append_left (by simp; omega), List.getElem?_append_right (by simp)]
  simp [hk]

/-- Settles O30: the announcement is appended when the identifier is known, and ERR_NO_ID flagged when not. -/
theorem handshakeResponseMessage : Obligations.HandshakeResponseMessage := by
  refine ⟨fun p uuid => ⟨announcement_length p uuid, fun k hk => announcement_getElem?_uuid p uuid hk⟩, fun s => ?_⟩
  show Host.Outcome.next (s.hsRespond.ret 0) = _
  split
  · next h => rw [s.hsRespond_known h]; rfl
  · next h => rw [s.hsRespond_unknown (Bool.eq_false_of_not_eq_true h)]; rfl

/-- Settles O31: the channel check and the append. -/
theorem faderUpdateMessage : Obligations.FaderUpdateMessage := by
  intro s ch position
  split
  · next hc => exact congrArg _ (s.withChannel_of_exists ch _ hc)
  · next hc => exact congrArg _ (s.withChannel_of_absent ch _ hc)

/-- The channel field of a frame flags the channel range or nothing. -/
theorem State.rxChannel_status (b : Byte) :
    (s.rxChannel b).status = s.status ∨ (s.rxChannel b).status = s.status ||| 0b0010 := by
  refine s.rxChannel_cases (fun t => t.status = s.status ∨ t.status = s.status ||| 0b0010) b ?_ ?_ ?_
  · exact fun _ => .inr rfl
  · exact fun _ _ => .inl rfl
  · exact fun _ _ => .inl rfl

/-- Settles O37: within a frame a byte is the channel field or payload data, and neither answers a command. -/
theorem payloadIsNotExaminedForCommands : Obligations.PayloadIsNotExaminedForCommands := by
  intro s t b hactive h
  cases h
  have hidle : ¬ s.rx.active = false := by simp [hactive]
  refine s.rxByteOp_cases
    (fun t => t.tx = s.tx ∧ t.rx.cmd = s.rx.cmd ∧ (t.status = s.status ∨ t.status = s.status ||| 0b0010)) b
    (fun h => absurd h hidle) (fun h => absurd h hidle) (fun h => absurd h hidle) ?channel ?data
  case channel =>
    intro _ _
    simpa using s.rxChannel_status b
  case data =>
    intro _ _
    simp

end Sys2Proof.Machine
end

section
/-! One inbound byte, case by case with the state it leaves (R130 to R136, R141, R145). -/

namespace Sys2Proof.Machine

variable {s : State} {b : Byte}

/-! ## The parser idle (R131) -/

theorem State.rxByteOp_idle (hidle : s.rx.active = false) : s.rxByteOp b = (s.rxIdle b).ret 0 := by
  simp [State.rxByteOp, hidle]

theorem State.rxByteOp_request (hidle : s.rx.active = false) :
    s.rxByteOp Config.cmdHsReq = s.hsRespond.ret 0 := State.rxByteOp_idle hidle

theorem State.rxByteOp_opens (hidle : s.rx.active = false) (hreq : b ≠ Config.cmdHsReq)
    (hframed : s.params.framed b) :
    s.rxByteOp b = (s.setRx { s.rx with cmd := b, idx := 0, active := true }).ret 0 := by
  rw [State.rxByteOp_idle hidle, State.rxIdle, if_neg hreq, if_pos hframed]

theorem State.rxByteOp_unknown (hidle : s.rx.active = false) (hunknown : ¬ s.params.recognised b) :
    s.rxByteOp b = (s.flag .unknownCmd).ret 0 := by
  obtain ⟨hreq, hframed⟩ := not_or.1 hunknown
  rw [State.rxByteOp_idle hidle, State.rxIdle, if_neg hreq, if_neg hframed]

/-- Settles O24: the three kinds of byte an idle parser tells apart. -/
theorem rxByteIdleDispatches : Obligations.RxByteIdleDispatches := by
  refine ⟨fun ch junk b => by simp [decodeWord], fun s b hidle => ?_⟩
  show Host.Outcome.next (s.rxByteOp b) = _
  split
  case isTrue hreq =>
    subst hreq
    exact (congrArg _ (State.rxByteOp_request hidle)).trans (handshakeResponseMessage.2 s)
  case isFalse hreq =>
    split
    case isTrue hframed => rw [State.rxByteOp_opens hidle hreq hframed]; rfl
    case isFalse hframed => rw [State.rxByteOp_unknown hidle (not_or.2 ⟨hreq, hframed⟩)]; rfl

/-- Settles O29: idle, the request is the dispatched byte; in a frame, the byte is payload. -/
theorem handshakeRequestIsAnswered : Obligations.HandshakeRequestIsAnswered :=
  ⟨fun s hidle => rxByteIdleDispatches.2 s Config.cmdHsReq hidle,
    fun s hactive => ⟨_, rfl, rfl, (payloadIsNotExaminedForCommands s _ 0x01 hactive rfl).1⟩⟩

/-- Settles O35: idle, the byte is flagged; in a frame, it is payload. -/
theorem unrecognisedByteIsDropped : Obligations.UnrecognisedByteIsDropped :=
  ⟨fun _ _ hidle hunknown => congrArg Host.Outcome.next (State.rxByteOp_unknown hidle hunknown),
    fun s b hactive => ⟨_, rfl, rfl, (payloadIsNotExaminedForCommands s _ b hactive rfl).1⟩⟩

/-- Settles O28: one register of the parser is written. -/
theorem rxRearmAbandonsTheFrame : Obligations.RxRearmAbandonsTheFrame :=
  ⟨fun ch arg => by simp [decodeWord], fun _ => rfl⟩

/-! ## The channel byte (R132, R145) -/

/-- A channel byte is the channel field and one byte counted; it ends no frame (R143). -/
theorem State.rxByteOp_channel (hok : s.rx.ok s.params) (hactive : s.rx.active = true) (hidx : s.rx.idx = 0) :
    s.rxByteOp b = ((s.rxChannel b).setRx { s.rx with ch := b, idx := 1 }).ret 0 := by
  have htwo := two_le_inboundPlen (hok hactive).1
  have hmore : ((s.rxChannel b).rx.idx + 1).toNat ≠ inboundPlen (s.rxChannel b).params (s.rxChannel b).rx.cmd := by
    rw [State.rxChannel_rx, State.rxChannel_params, hidx]
    exact Nat.ne_of_lt htwo
  have hbyte : s.rxByteOp b = (s.rxChannel b).rxAdvance.ret 0 := by
    rw [State.rxByteOp, if_pos hactive, State.rxPayload, if_pos hidx]
  rw [hbyte, State.rxAdvance_more _ hmore, State.rxChannel_rx, hidx]
  rfl

theorem State.rxChannel_absent (h : ¬ channelExists s.params b) :
    s.rxChannel b = (s.setRx { s.rx with ch := b }).flag .chRange := if_pos h

theorem State.rxChannel_icon (h : channelExists s.params b) (hcmd : s.rx.cmd = s.params.cmdIcon) :
    s.rxChannel b = (s.setRx { s.rx with ch := b }).icoStart b := (if_neg (not_not.2 h)).trans (if_pos hcmd)

theorem State.rxChannel_short (h : channelExists s.params b) (hcmd : s.rx.cmd ≠ s.params.cmdIcon) :
    s.rxChannel b = s.setRx { s.rx with ch := b } := (if_neg (not_not.2 h)).trans (if_neg hcmd)

/-- Settles O25: the channel field's three cases, the byte counted. -/
theorem rxByteChannelField : Obligations.RxByteChannelField := by
  intro s b _ hok hactive hidx
  show Host.Outcome.next (s.rxByteOp b) = _
  rw [State.rxByteOp_channel hok hactive hidx]
  split
  case isTrue habsent => rw [State.rxChannel_absent (Nat.not_lt.2 habsent)]; rfl
  case isFalse hexists =>
    split
    case isTrue hcmd => rw [State.rxChannel_icon (Nat.not_le.1 hexists) hcmd]; rfl
    case isFalse hcmd => rw [State.rxChannel_short (Nat.not_le.1 hexists) hcmd]; rfl

/-! ## The bytes after the channel (R132 to R134) -/

theorem State.rxByteOp_data (hactive : s.rx.active = true) (hidx : s.rx.idx ≠ 0) :
    s.rxByteOp b = (s.rxData b).rxAdvance.ret 0 := by
  rw [State.rxByteOp, if_pos hactive, State.rxPayload, if_neg hidx]

theorem State.rxData_text (hcmd : s.rx.cmd = s.params.cmdAppName) (k : Fin 64) (hidx : s.rx.idx.toNat = k.val + 1) :
    s.rxData b = s.setRx { s.rx with buf := s.rx.buf.set k b } := by
  have hpos : s.rx.idx.toNat - 1 = k.val := by omega
  have hset : s.rx.buf.setIfInBounds k.val b = s.rx.buf.set k b := by
    ext
    simp [Vector.getElem_set, Vector.getElem_setIfInBounds]
  rw [State.rxData, if_pos hcmd, hpos, hset]

theorem State.rxData_volume (hp : s.params.wf) (hcmd : s.rx.cmd = s.params.cmdVolume) :
    s.rxData b = s.setRx { s.rx with buf := s.rx.buf.set 0 b } := by
  obtain ⟨-, -, -, hne, -, -⟩ := Params.commands_ne hp
  simp [State.rxData, hcmd, hne.symm]

theorem State.rxData_pixel (hp : s.params.wf) (hcmd : s.rx.cmd = s.params.cmdIcon) :
    s.rxData b = if channelExists s.params s.rx.ch then s.icoAddByte s.rx.ch b else s := by
  obtain ⟨-, -, -, -, hne, hne'⟩ := Params.commands_ne hp
  simp [State.rxData, hcmd, hne.symm, hne'.symm]

/-- A complete text frame delivers its buffer if its channel exists. -/
theorem State.rxDone_text (hcmd : s.rx.cmd = s.params.cmdAppName) :
    s.rxDone = { s with
      rx := { s.rx with active := false }
      ev := if s.rx.ch.toNat < s.params.nch then s.ev ++ [.appName s.rx.ch s.rx.buf.toList] else s.ev } := by
  by_cases hc : channelExists s.params s.rx.ch
  · simp only [State.rxDone, if_pos hc, if_pos hcmd]; rfl
  · simp only [State.rxDone, if_neg hc]; rfl

/-- A complete volume frame delivers its value, clamped, if its channel exists. -/
theorem State.rxDone_volume (hp : s.params.wf) (hcmd : s.rx.cmd = s.params.cmdVolume) :
    s.rxDone = { s with
      rx := { s.rx with active := false }
      ev := if s.rx.ch.toNat < s.params.nch then s.ev ++ [.volume s.rx.ch (clampVolume s.rx.buf[0])] else s.ev } := by
  obtain ⟨-, -, -, hne, -, -⟩ := Params.commands_ne hp
  have happ : s.rx.cmd ≠ s.params.cmdAppName := hcmd ▸ hne.symm
  by_cases hc : channelExists s.params s.rx.ch
  · simp only [State.rxDone, if_pos hc, if_neg happ, if_pos hcmd]; rfl
  · simp only [State.rxDone, if_neg hc]; rfl

/-- A complete icon frame delivers no event. -/
theorem State.rxDone_icon (hp : s.params.wf) (hcmd : s.rx.cmd = s.params.cmdIcon) :
    s.rxDone = s.setRx { s.rx with active := false } := by
  obtain ⟨-, -, -, -, hne, hne'⟩ := Params.commands_ne hp
  have happ : s.rx.cmd ≠ s.params.cmdAppName := hcmd ▸ hne.symm
  have hvol : s.rx.cmd ≠ s.params.cmdVolume := hcmd ▸ hne'.symm
  simp only [State.rxDone, if_neg happ, if_neg hvol, ite_self]

/-- A text byte before the 64th goes into the buffer. -/
theorem State.rxByteOp_text (hactive : s.rx.active = true) (hcmd : s.rx.cmd = s.params.cmdAppName) (k : Fin 64)
    (hidx : s.rx.idx.toNat = k.val + 1) (hk : k.val < 63) :
    s.rxByteOp b = (s.setRx { s.rx with buf := s.rx.buf.set k b, idx := s.rx.idx + 1 }).ret 0 := by
  have hne : s.rx.idx ≠ 0 := fun e => by simp [e] at hidx
  rw [State.rxByteOp_data hactive hne, State.rxData_text hcmd k hidx, State.rxAdvance_more]
  · rfl
  · show (s.rx.idx + 1).toNat ≠ inboundPlen s.params s.rx.cmd
    rw [idx_succ _ (by omega), hcmd, inboundPlen_appName]
    omega

/-- The 64th text byte ends the frame and delivers the event. -/
theorem State.rxByteOp_text_last (hactive : s.rx.active = true) (hcmd : s.rx.cmd = s.params.cmdAppName) (k : Fin 64)
    (hidx : s.rx.idx.toNat = k.val + 1) (hk : ¬ k.val < 63) :
    s.rxByteOp b = { s with
      rx := { s.rx with buf := s.rx.buf.set k b, idx := 65, active := false }
      ev := if s.rx.ch.toNat < s.params.nch then s.ev ++ [.appName s.rx.ch (s.rx.buf.set k b).toList] else s.ev
      res := 0 } := by
  have hne : s.rx.idx ≠ 0 := fun e => by simp [e] at hidx
  have hlast : s.rx.idx + 1 = 65 := by
    apply BitVec.eq_of_toNat_eq
    rw [idx_succ _ (by omega)]
    show s.rx.idx.toNat + 1 = 65
    omega
  rw [State.rxByteOp_data hactive hne, State.rxData_text hcmd k hidx, State.rxAdvance_last, State.rxDone_text]
  · simp only [State.setRx_rx, hlast]; rfl
  · exact hcmd
  · show (s.rx.idx + 1).toNat = inboundPlen s.params s.rx.cmd
    rw [hlast, hcmd, inboundPlen_appName]
    rfl

/-- The volume byte ends the frame and delivers the event. -/
theorem State.rxByteOp_volume (hp : s.params.wf) (hactive : s.rx.active = true)
    (hcmd : s.rx.cmd = s.params.cmdVolume) (hidx : s.rx.idx = 1) :
    s.rxByteOp b = { s with
      rx := { s.rx with buf := s.rx.buf.set 0 b, idx := 2, active := false }
      ev := if s.rx.ch.toNat < s.params.nch then
          s.ev ++ [.volume s.rx.ch (BitVec.ofNat 8 (min b.toNat 100))] else s.ev
      res := 0 } := by
  have hne : s.rx.idx ≠ 0 := hidx ▸ by decide
  have hlast : s.rx.idx + 1 = 2 := by rw [hidx]; rfl
  rw [State.rxByteOp_data hactive hne, State.rxData_volume hp hcmd, State.rxAdvance_last, State.rxDone_volume]
  · simp only [State.setRx_rx, hlast, Vector.getElem_set_self]; rfl
  · exact hp
  · exact hcmd
  · show (s.rx.idx + 1).toNat = inboundPlen s.params s.rx.cmd
    rw [hlast, hcmd, inboundPlen_volume hp]
    rfl

/-- Settles O26: a text byte before the last, the last text byte, and the volume byte. -/
theorem rxByteShortFrameFields : Obligations.RxByteShortFrameFields := by
  refine ⟨fun s b k _ hactive hcmd hidx => ?_, fun s b hp hactive hcmd hidx => ?_⟩
  · show Host.Outcome.next (s.rxByteOp b) = _
    split
    case isTrue hk => rw [State.rxByteOp_text hactive hcmd k hidx hk]; rfl
    case isFalse hk => rw [State.rxByteOp_text_last hactive hcmd k hidx hk]
  · exact congrArg Host.Outcome.next (State.rxByteOp_volume hp hactive hcmd hidx)

/-- The count of an icon frame advances, and at 8193 payload bytes the parser is idle again. -/
theorem State.rxAdvance_icon (hp : s.params.wf) (hactive : s.rx.active = true) (hcmd : s.rx.cmd = s.params.cmdIcon)
    (hidx : s.rx.idx.toNat ≤ 8192) :
    s.rxAdvance = s.setRx { s.rx with idx := s.rx.idx + 1, active := decide (s.rx.idx.toNat ≠ 8192) } := by
  have hplen : inboundPlen s.params s.rx.cmd = 8193 := by rw [hcmd, inboundPlen_icon hp]
  have hsucc := idx_succ s.rx.idx (by omega)
  by_cases hlast : s.rx.idx.toNat = 8192
  · rw [State.rxAdvance_last s (by omega), State.rxDone_icon]
    · simp [hlast]
    · exact hp
    · exact hcmd
  · rw [State.rxAdvance_more s (by omega)]
    simp [hlast, hactive]

/-- A pixel byte goes to the assembler of the frame's channel, if there is one, and is counted. -/
theorem State.rxByteOp_pixel (hp : s.params.wf) (hactive : s.rx.active = true) (hcmd : s.rx.cmd = s.params.cmdIcon)
    (hfirst : 1 ≤ s.rx.idx.toNat) (hidx : s.rx.idx.toNat ≤ 8192) :
    s.rxByteOp b = ((if channelExists s.params s.rx.ch then s.icoAddByte s.rx.ch b else s).setRx
      { s.rx with idx := s.rx.idx + 1, active := decide (s.rx.idx.toNat ≠ 8192) }).ret 0 := by
  have hne : s.rx.idx ≠ 0 := fun e => by simp [e] at hfirst
  rw [State.rxByteOp_data hactive hne, State.rxData_pixel hp hcmd]
  split
  · rw [State.rxAdvance_icon (by simpa using hp) (by simpa using hactive) (by simpa using hcmd) (by simpa using hidx)]
    simp only [State.icoAddByte_rx]
  · rw [State.rxAdvance_icon hp hactive hcmd hidx]

/-- Settles O27: the byte goes to the assembler as by ICO.ADDBYTE, or nowhere. -/
theorem rxBytePixelField : Obligations.RxBytePixelField := by
  intro s b hp hactive hcmd hfirst hidx
  have hbyte : exec (.rxByte b) s = .next (s.rxByteOp b) := rfl
  rw [hbyte, State.rxByteOp_pixel hp hactive hcmd hfirst hidx]
  split
  case isTrue hc => exact ⟨_, congrArg Host.Outcome.next (s.addByteOp_of_exists s.rx.ch b hc), rfl⟩
  case isFalse => exact ⟨_, rfl, rfl⟩

end Sys2Proof.Machine
end

section
/-! Short frames from the idle parser, whole (R137, R138, R145). -/

namespace Sys2Proof

/-- A command byte that opens a frame is not the handshake request (R6). -/
theorem Params.framed_ne_hsReq {p : Params} {cmd : Byte} (hp : p.wf) (h : p.framed cmd) : cmd ≠ Config.cmdHsReq := by
  obtain ⟨happ, hvol, hicon, -⟩ := Params.commands_ne hp
  rcases h with rfl | rfl | rfl
  exacts [happ.symm, hvol.symm, hicon.symm]

end Sys2Proof

namespace Sys2Proof.Machine

variable {s : State} {cmd ch : Byte}

/-! ## The command byte and the channel byte -/

/-- The first two bytes of a frame open it and take its channel field. -/
theorem State.rxByteOp_header (hp : s.params.wf) (hidle : s.rx.active = false) (hframed : s.params.framed cmd) :
    (s.rxByteOp cmd).rxByteOp ch =
      ((((s.setRx { s.rx with cmd := cmd, idx := 0, active := true }).ret 0).rxChannel ch).setRx
        { active := true, cmd := cmd, idx := 1, ch := ch, buf := s.rx.buf }).ret 0 := by
  rw [State.rxByteOp_opens hidle (Params.framed_ne_hsReq hp hframed) hframed,
    State.rxByteOp_channel (ParserRec.ok_opened hframed s.rx) rfl rfl]
  rfl

/-- The header of a short frame flags a channel out of range and changes nothing but the parser else. -/
theorem State.rxByteOp_header_short (hp : s.params.wf) (hidle : s.rx.active = false) (hframed : s.params.framed cmd)
    (hcmd : cmd ≠ s.params.cmdIcon) :
    (s.rxByteOp cmd).rxByteOp ch = { s with
      rx := { active := true, cmd := cmd, idx := 1, ch := ch, buf := s.rx.buf }
      status := if ch.toNat < s.params.nch then s.status else s.status ||| 0b0010
      res := 0 } := by
  rw [State.rxByteOp_header hp hidle hframed]
  split
  case isTrue hc =>
    rw [State.rxChannel_short]
    exacts [rfl, hc, hcmd]
  case isFalse hc =>
    rw [State.rxChannel_absent]
    exacts [rfl, hc]

/-! ## The text of an APP_NAME frame -/

theorem take_succ_set {α : Type} (l : List α) (k : Nat) (a : α) (hk : k < l.length) :
    (l.set k a).take (k + 1) = l.take k ++ [a] := by
  simp [List.take_add_one, List.take_set_of_le, hk]

/-- The rest of a text, from its byte `k` on, fills the rest of the buffer and delivers the event. -/
theorem State.rxBytes_text {k : Nat} {text : List Byte} {buf : Vector Byte 64} (hactive : s.rx.active = true)
    (hcmd : s.rx.cmd = s.params.cmdAppName) (hidx : s.rx.idx.toNat = k + 1) (hne : text ≠ [])
    (hbuf : buf.toList = s.rx.buf.toList.take k ++ text) :
    s.rxBytes text = { s with
      rx := { s.rx with buf := buf, idx := 65, active := false }
      ev := if s.rx.ch.toNat < s.params.nch then s.ev ++ [.appName s.rx.ch buf.toList] else s.ev
      res := 0 } := by
  induction text generalizing s k with
  | nil => exact absurd rfl hne
  | cons b rest ih =>
    have hlen : min k 64 + (rest.length + 1) = 64 := by simpa using (congrArg List.length hbuf).symm
    have hk : k < 64 := by omega
    have hfilled : (s.rx.buf.set k b).toList.take (k + 1) = s.rx.buf.toList.take k ++ [b] := by
      rw [Vector.toList_set]
      exact take_succ_set _ _ _ (by simpa using hk)
    rw [State.rxBytes_cons]
    cases rest with
    | nil =>
      obtain rfl : k = 63 := by simp at hlen; omega
      have hset : s.rx.buf.set 63 b = buf := by
        apply Vector.toList_inj.1
        rw [hbuf, ← hfilled, List.take_of_length_le (by simp)]
      rw [State.rxByteOp_text_last hactive hcmd 63 hidx (by decide), State.rxBytes_nil, ← hset]
      rfl
    | cons b' rest' =>
      have hmore : k < 63 := by simp at hlen; omega
      have hrest : buf.toList = (s.rx.buf.set k b).toList.take (k + 1) ++ b' :: rest' := by
        rw [hfilled, hbuf, List.append_assoc, List.singleton_append]
      have hsucc : (s.rx.idx + 1).toNat = k + 1 + 1 := by rw [idx_succ _ (by omega), hidx]
      rw [State.rxByteOp_text hactive hcmd ⟨k, hk⟩ hidx hmore]
      exact ih hactive hcmd hsucc (List.cons_ne_nil _ _) hrest

/-- Settles O32: the header, then the text into the buffer. -/
theorem appNameFrameDeliversText : Obligations.AppNameFrameDeliversText := by
  intro s ch text hp hidle hlen
  show Host.Outcome.next (((s.rxByteOp s.params.cmdAppName).rxByteOp ch).rxBytes text) = _
  obtain ⟨-, -, -, -, hicon, -⟩ := Params.commands_ne hp
  have hne : text ≠ [] := fun e => by simp [e] at hlen
  rw [State.rxByteOp_header_short hp hidle (.inl rfl) hicon]
  exact congrArg Host.Outcome.next
    (State.rxBytes_text (k := 0) (buf := ⟨text.toArray, by simpa using hlen⟩) rfl rfl rfl hne rfl)

/-- Settles O33: the header, then the one byte of the value. -/
theorem volumeFrameDeliversClampedValue : Obligations.VolumeFrameDeliversClampedValue := by
  intro s ch value hp hidle
  show Host.Outcome.next (((s.rxByteOp s.params.cmdVolume).rxByteOp ch).rxByteOp value) = _
  obtain ⟨-, -, -, -, -, hicon⟩ := Params.commands_ne hp
  rw [State.rxByteOp_header_short hp hidle (.inr (.inl rfl)) hicon]
  exact congrArg Host.Outcome.next (State.rxByteOp_volume hp rfl rfl rfl)

end Sys2Proof.Machine
end

section
/-! The bytes of an icon through the assembler, from its re-arming on (R170 to R173). -/

namespace Sys2Proof.Machine

/-- Stream bytes for the assembler of one channel, each one `IcoAddByte` (R171). -/
def State.icoAddBytes (s : State) (c : Byte) (bytes : List Byte) : State :=
  bytes.foldl (fun s b => s.icoAddByte c b) s

variable {s t : State} {c b : Byte} {bytes : List Byte}

@[simp] theorem State.icoAddBytes_nil : s.icoAddBytes c [] = s := rfl

@[simp] theorem State.icoAddBytes_cons : s.icoAddBytes c (b :: bytes) = (s.icoAddByte c b).icoAddBytes c bytes := rfl

@[simp] theorem State.icoAddBytes_concat : s.icoAddBytes c (bytes ++ [b]) = (s.icoAddBytes c bytes).icoAddByte c b :=
  List.foldl_concat _ _ _ _

/-- A pixel byte writes the icon record of its channel and the pixel memory alone. -/
theorem State.icoAddByte_frame (s : State) (c b : Byte) :
    s.icoAddByte c b =
      { s.setIco c ((s.icoAddByte c b).icoAt c) with mem := (s.icoAddByte c b).mem } := by
  apply s.icoAddByte_cases (fun t => t = { s.setIco c (t.icoAt c) with mem := t.mem }) <;> intros <;> simp <;> rfl

/-- The state `t` after the stream `bytes` has gone to the assembler of channel `c`, re-armed in the state `s`: the
completion law of R172, with what it leaves alone. -/
structure State.Streamed (s t : State) (c : Byte) (bytes : List Byte) : Prop where
  cursor : (t.icoAt c).cursor.toNat = min (bytes.length / 2) 4096
  ready : (t.icoAt c).ready = true ↔ 8192 ≤ bytes.length
  phase : (t.icoAt c).phase = .awaitingLow ↔ bytes.length % 2 = 1
  /-- Between the two bytes of a pixel the high one is held. -/
  held : bytes.length % 2 = 1 → (t.icoAt c).hi = bytes.getD (bytes.length - 1) 0
  placeholder : (t.icoAt c).placeholder = false
  written : ∀ i < min (bytes.length / 2) 4096,
    Memory.pixelAt t.mem c i = some (bytes.getD (2 * i) 0 ++ bytes.getD (2 * i + 1) 0)
  /-- Every other pixel is as before. -/
  kept : ∀ (d : Byte) (i : Nat), i < 4096 → ¬ (d = c ∧ i < min (bytes.length / 2) 4096) →
    Memory.pixelAt t.mem d i = Memory.pixelAt s.mem d i
  frame : t = { s.setIco c (t.icoAt c) with mem := t.mem }

theorem State.Streamed.nil : s.Streamed (s.icoStart c) c [] where
  cursor := by simp
  ready := by simp
  phase := by simp
  held := nofun
  placeholder := by simp
  written := nofun
  kept := fun _ _ _ _ => by simp
  frame := by simp [State.icoStart]; rfl

/-- A pixel complete in the stream is the same in a longer one. -/
theorem getD_pixel_concat (bytes : List Byte) (b : Byte) {i : Nat} (hi : i < bytes.length / 2) :
    (bytes ++ [b]).getD (2 * i) 0 ++ (bytes ++ [b]).getD (2 * i + 1) 0 =
      bytes.getD (2 * i) 0 ++ bytes.getD (2 * i + 1) 0 := by
  rw [List.getD_append _ _ _ _ (by omega), List.getD_append _ _ _ _ (by omega)]

theorem State.Streamed.frame_icoAddByte (h : s.Streamed t c bytes) (b : Byte) :
    t.icoAddByte c b = { s.setIco c ((t.icoAddByte c b).icoAt c) with mem := (t.icoAddByte c b).mem } := by
  refine (t.icoAddByte_frame c b).trans ?_
  generalize (t.icoAddByte c b).icoAt c = r, (t.icoAddByte c b).mem = m
  rw [h.frame]
  simp [State.setIco]

/-- A high byte is held. -/
theorem State.Streamed.concat_high (h : s.Streamed t c bytes) (b : Byte) (hphase : (t.icoAt c).phase = .awaitingHigh) :
    s.Streamed (t.icoAddByte c b) c (bytes ++ [b]) := by
  have heven : bytes.length % 2 = 0 := by
    have : ¬ bytes.length % 2 = 1 := fun e => by simp [h.phase.2 e] at hphase
    omega
  have hodd : (bytes.length + 1) % 2 = 1 := by omega
  have hhalf : (bytes.length + 1) / 2 = bytes.length / 2 := by omega
  have hready : 8192 ≤ bytes.length ↔ 8192 ≤ bytes.length + 1 := by omega
  have hframe := h.frame_icoAddByte b
  rw [t.icoAddByte_high c b hphase] at hframe ⊢
  constructor
  case frame => exact hframe
  case cursor => simpa [hhalf] using h.cursor
  case ready => simpa [← hready] using h.ready
  case phase => simp [hodd]
  case held => simp
  case placeholder => simpa using h.placeholder
  case written =>
    intro i hi
    rw [List.length_append, List.length_singleton, hhalf] at hi
    rw [getD_pixel_concat bytes b (by omega)]
    exact h.written i hi
  case kept => simpa [hhalf] using h.kept

/-- A low byte completes the next pixel. -/
theorem State.Streamed.concat_store (h : s.Streamed t c bytes) (b : Byte) (hphase : (t.icoAt c).phase = .awaitingLow)
    (hcursor : (t.icoAt c).cursor.toNat < Config.npix) : s.Streamed (t.icoAddByte c b) c (bytes ++ [b]) := by
  have hodd := h.phase.1 hphase
  have heven : (bytes.length + 1) % 2 = 0 := by omega
  have hnpix : (t.icoAt c).cursor.toNat < 4096 := hcursor
  have hnext : (t.icoAt c).cursor.toNat = bytes.length / 2 := by have := h.cursor; omega
  have hsucc : ((t.icoAt c).cursor + 1).toNat = bytes.length / 2 + 1 := (cursor_succ _ hcursor).trans (by rw [hnext])
  have hhalf : min ((bytes.length + 1) / 2) 4096 = bytes.length / 2 + 1 := by omega
  have hlast : bytes.length / 2 + 1 = 4096 ↔ 8192 ≤ bytes.length + 1 := by omega
  have hnot : (t.icoAt c).ready = false := by
    rw [← Bool.not_eq_true, h.ready]; omega
  have hframe := h.frame_icoAddByte b
  rw [t.icoAddByte_store c b hphase hcursor] at hframe ⊢
  constructor
  case frame => exact hframe
  case cursor => rw [State.icoAt_setIco_same, List.length_append, List.length_singleton, hhalf, hsucc]
  case ready =>
    rw [State.icoAt_setIco_same, hsucc, hnot]
    simp [Config.npix, hlast]
  case phase => simp [heven]
  case held => simp [heven]
  case placeholder => simpa using h.placeholder
  case written =>
    intro i hi
    rw [List.length_append, List.length_singleton, hhalf] at hi
    simp only [State.setIco_mem, State.writePixel_mem, hnext]
    rcases Nat.lt_succ_iff_lt_or_eq.1 hi with hbelow | rfl
    · rw [getD_pixel_concat bytes b hbelow, ← h.written i (by omega)]
      exact Memory.pixelAt_storePixel_ne _ _ _ _ _ _ _ (hnext ▸ hcursor) (by show i < 4096; omega) (by omega)
    · have hhigh : 2 * (bytes.length / 2) = bytes.length - 1 := by omega
      have hlow : bytes.length - 1 + 1 = bytes.length := by omega
      rw [Memory.pixelAt_storePixel_same, hhigh, hlow, h.held hodd, List.getD_append _ _ _ _ (by omega),
        List.getD_append_right _ _ _ _ (by omega)]
      simp [pixelOf]
  case kept =>
    intro d i hi hother
    rw [List.length_append, List.length_singleton, hhalf] at hother
    rw [← h.kept d i hi fun ⟨hd, hlt⟩ => hother ⟨hd, by omega⟩]
    exact Memory.pixelAt_storePixel_ne _ _ _ _ _ _ _ hcursor hi fun ⟨hd, hi'⟩ => hother ⟨hd, by omega⟩

/-- A low byte beyond the last pixel is dropped (R173). -/
theorem State.Streamed.concat_full (h : s.Streamed t c bytes) (b : Byte) (hphase : (t.icoAt c).phase = .awaitingLow)
    (hcursor : ¬ (t.icoAt c).cursor.toNat < Config.npix) : s.Streamed (t.icoAddByte c b) c (bytes ++ [b]) := by
  have hodd := h.phase.1 hphase
  have heven : (bytes.length + 1) % 2 = 0 := by omega
  have hnpix : ¬ (t.icoAt c).cursor.toNat < 4096 := hcursor
  have hall : 4096 ≤ bytes.length / 2 := by have := h.cursor; omega
  have hhalf : min ((bytes.length + 1) / 2) 4096 = min (bytes.length / 2) 4096 := by omega
  have hready : 8192 ≤ bytes.length ↔ 8192 ≤ bytes.length + 1 := by omega
  have hframe := h.frame_icoAddByte b
  rw [t.icoAddByte_full c b hphase hcursor] at hframe ⊢
  constructor
  case frame => exact hframe
  case cursor => simpa [hhalf] using h.cursor
  case ready => simpa [← hready] using h.ready
  case phase => simp [heven]
  case held => simp [heven]
  case placeholder => simpa using h.placeholder
  case written =>
    intro i hi
    rw [List.length_append, List.length_singleton, hhalf] at hi
    rw [getD_pixel_concat bytes b (by omega)]
    exact h.written i hi
  case kept => simpa [hhalf] using h.kept

theorem State.Streamed.concat (h : s.Streamed t c bytes) (b : Byte) :
    s.Streamed (t.icoAddByte c b) c (bytes ++ [b]) := by
  cases hphase : (t.icoAt c).phase with
  | awaitingHigh => exact h.concat_high b hphase
  | awaitingLow =>
    by_cases hcursor : (t.icoAt c).cursor.toNat < Config.npix
    · exact h.concat_store b hphase hcursor
    · exact h.concat_full b hphase hcursor

/-- The completion law (R172): re-arming and any stream after it. -/
theorem State.icoAddBytes_streamed (s : State) (c : Byte) (bytes : List Byte) :
    s.Streamed ((s.icoStart c).icoAddBytes c bytes) c bytes := by
  induction bytes using List.reverseRecOn with
  | nil => exact .nil
  | append_singleton bytes b ih => rw [State.icoAddBytes_concat]; exact ih.concat b

end Sys2Proof.Machine
end

section
/-! A whole ICON frame from the idle parser (R139, R145). -/

namespace Sys2Proof.Machine

variable {s : State} {r : ParserRec} {b : Byte} {bytes : List Byte}

/-- The assembler neither reads nor writes the parser and the result port. -/
theorem State.icoAddByte_setRx_ret (s : State) (r : ParserRec) (v : Word) (c b : Byte) :
    ((s.setRx r).ret v).icoAddByte c b = ((s.icoAddByte c b).setRx r).ret v :=
  s.icoAddByte_cases (fun t => ((s.setRx r).ret v).icoAddByte c b = (t.setRx r).ret v) c b
    (((s.setRx r).ret v).icoAddByte_high c b) (((s.setRx r).ret v).icoAddByte_store c b)
    (((s.setRx r).ret v).icoAddByte_full c b)

/-- A pixel byte, with the parser and the result port held apart from the rest of the state. -/
theorem State.rxByteOp_setRx_pixel (hp : s.params.wf) (hactive : r.active = true) (hcmd : r.cmd = s.params.cmdIcon)
    (hfirst : 1 ≤ r.idx.toNat) (hidx : r.idx.toNat ≤ 8192) :
    ((s.setRx r).ret 0).rxByteOp b =
      ((if channelExists s.params r.ch then s.icoAddByte r.ch b else s).setRx
        { r with idx := r.idx + 1, active := decide (r.idx.toNat ≠ 8192) }).ret 0 := by
  rw [State.rxByteOp_pixel (s := (s.setRx r).ret 0) hp hactive hcmd hfirst hidx]
  split
  case isTrue hc => rw [if_pos (show channelExists s.params r.ch from hc), State.icoAddByte_setRx_ret]; rfl
  case isFalse hc => rw [if_neg (show ¬ channelExists s.params r.ch from hc)]; rfl

/-- The rest of a frame's pixel bytes goes to the assembler of its channel, if there is one, and ends the frame. -/
theorem State.rxBytes_pixels (hp : s.params.wf) (hactive : r.active = true) (hcmd : r.cmd = s.params.cmdIcon)
    (hfirst : 1 ≤ r.idx.toNat) (hlen : r.idx.toNat + bytes.length = 8193) (hne : bytes ≠ []) :
    ((s.setRx r).ret 0).rxBytes bytes =
      ((if channelExists s.params r.ch then s.icoAddBytes r.ch bytes else s).setRx
        { r with idx := 8193, active := false }).ret 0 := by
  induction bytes generalizing s r with
  | nil => exact absurd rfl hne
  | cons b rest ih =>
    rw [List.length_cons] at hlen
    have hsucc : (r.idx + 1).toNat = r.idx.toNat + 1 := idx_succ _ (by omega)
    rw [State.rxBytes_cons, State.rxByteOp_setRx_pixel hp hactive hcmd hfirst (by omega)]
    cases rest with
    | nil =>
      have hlast : decide (r.idx.toNat ≠ 8192) = false := by simpa using hlen
      have hend : r.idx + 1 = 8193 := BitVec.eq_of_toNat_eq (by rw [hsucc]; simpa using hlen)
      rw [hlast, hend]
      rfl
    | cons b' rest' =>
      have hmore : decide (r.idx.toNat ≠ 8192) = true := by simp at hlen ⊢; omega
      have hparams : (if channelExists s.params r.ch then s.icoAddByte r.ch b else s).params = s.params := by
        split <;> simp
      rw [ih (by rwa [hparams]) hmore (by rwa [hparams]) (by rw [hsucc]; omega) (by rw [hsucc]; omega)
        (List.cons_ne_nil _ _), hparams]
      split <;> rfl

/-- The header of an ICON frame re-arms the assembler of its channel or flags the channel. -/
theorem State.rxByteOp_header_icon {ch : Byte} (hp : s.params.wf) (hidle : s.rx.active = false) :
    (s.rxByteOp s.params.cmdIcon).rxByteOp ch =
      ((if channelExists s.params ch then s.icoStart ch else s.flag .chRange).setRx
        { active := true, cmd := s.params.cmdIcon, idx := 1, ch := ch, buf := s.rx.buf }).ret 0 := by
  rw [State.rxByteOp_header hp hidle (.inr (.inr rfl))]
  split
  case isTrue hc =>
    rw [State.rxChannel_icon]
    exacts [rfl, hc, rfl]
  case isFalse hc =>
    rw [State.rxChannel_absent]
    exacts [rfl, hc]

/-- A whole ICON frame is the assembler's stream, or the flag alone. -/
theorem State.rxBytes_icon {ch : Byte} {pixels : List Byte} (hp : s.params.wf) (hidle : s.rx.active = false)
    (hlen : pixels.length = 8192) :
    s.rxBytes (s.params.cmdIcon :: ch :: pixels) =
      ((if channelExists s.params ch then (s.icoStart ch).icoAddBytes ch pixels else s.flag .chRange).setRx
        { active := false, cmd := s.params.cmdIcon, idx := 8193, ch := ch, buf := s.rx.buf }).ret 0 := by
  have hne : pixels ≠ [] := fun e => by simp [e] at hlen
  have hparams : (if channelExists s.params ch then s.icoStart ch else s.flag .chRange).params = s.params := by
    split <;> simp
  rw [State.rxBytes_cons, State.rxBytes_cons, State.rxByteOp_header_icon hp hidle,
    State.rxBytes_pixels (by rwa [hparams]) rfl (by rw [hparams]) (by simp) (by simp [hlen]) hne, hparams]
  split <;> rfl

theorem Phase.eq_awaitingHigh {p : Phase} (h : p ≠ .awaitingLow) : p = .awaitingHigh := by
  cases p with
  | awaitingHigh => rfl
  | awaitingLow => exact absurd rfl h

/-- Settles O34: the completion law for 8192 bytes, or the flag alone. -/
theorem iconFrameFillsTheBuffer : Obligations.IconFrameFillsTheBuffer := by
  intro s ch pixels hp hidle hlen
  have hexec : exec (.icon ch pixels) s = .next (s.rxBytes (s.params.cmdIcon :: ch :: pixels)) := rfl
  rw [hexec, State.rxBytes_icon hp hidle hlen]
  refine ⟨fun hc => ?_, fun habsent => ?_⟩
  · rw [if_pos hc]
    have h := s.icoAddBytes_streamed ch pixels
    have hhalf : min (pixels.length / 2) 4096 = 4096 := by omega
    refine ⟨_, rfl, ?_, ?_, ?_, ?_, ?_, ?_, ?_⟩
    · exact fun i hi => h.written i (by omega)
    · exact fun d i hd hi => h.kept d i hi fun e => hd e.1
    · exact h.ready.2 (by omega)
    · exact h.placeholder
    · exact BitVec.eq_of_toNat_eq (h.cursor.trans hhalf)
    · exact Phase.eq_awaitingHigh (mt h.phase.1 (by omega))
    · exact congrArg (fun t : State => (t.setRx _).ret 0) h.frame
  · rw [if_neg (Nat.not_lt.2 habsent)]
    rfl

end Sys2Proof.Machine
end

section
/-! The channel check with its rejected state written out (R255), and the operations of the icon assembler, one by one
(R170, R171, R174, R175, R177, R178). -/

namespace Sys2Proof.Machine

variable (s : State) (ch : Byte)

theorem State.withChannel_eq_ite (body : State → State) :
    s.withChannel ch body =
      if ch.toNat < s.params.nch then body s else { s with status := s.status ||| 0b0010, res := 0 } := rfl

/-- The rejection of a channel the block does not have. -/
theorem State.withChannel_rejected (body : State → State) (habsent : s.params.nch ≤ ch.toNat) :
    s.withChannel ch body = { s with status := s.status ||| 0b0010, res := 0 } :=
  s.withChannel_of_absent ch body (Nat.not_lt.2 habsent)

theorem iconShown_iff (r : IcoRec) : iconShown r = true ↔ r.ready = true ∨ r.placeholder = true := Bool.or_eq_true_iff

/-- Settles O4: the body of the operation is the record with its four registers reset. -/
theorem icoStartRearmsTheAssembler : Obligations.IcoStartRearmsTheAssembler :=
  ⟨fun ch arg => by simp [decodeWord], fun s ch => congrArg Host.Outcome.next (s.withChannel_eq_ite ch _)⟩

/-- Settles O6: the flag of the result is `isReady()`. -/
theorem icoIsReadyReturnsReadyOrPlaceholder : Obligations.IcoIsReadyReturnsReadyOrPlaceholder := by
  refine ⟨fun ch arg => by simp [decodeWord], fun s ch => congrArg Host.Outcome.next ?_⟩
  rw [s.withChannel_eq_ite ch, flagResult_eq]
  simp only [iconShown_iff]
  rfl

/-- Settles O7: the body of the operation is the record with its placeholder flag written. -/
theorem icoSetPhWritesPlaceholder : Obligations.IcoSetPhWritesPlaceholder :=
  ⟨fun ch junk v => by simp [decodeWord], fun s ch _ => congrArg Host.Outcome.next (s.withChannel_eq_ite ch _)⟩

/-- Settles O8: the event is emitted under the test of `isReady()`. -/
theorem icoDrawEmitsOnlyWhenReady : Obligations.IcoDrawEmitsOnlyWhenReady := by
  refine ⟨fun ch x y => by simp [decodeWord], fun s ch x y => congrArg Host.Outcome.next ?_⟩
  rw [s.withChannel_eq_ite ch]
  simp only [iconShown_iff, apply_ite (State.ret · 0)]
  rfl

/-- Settles O9: the pixel read, written or free, behind the channel check. -/
theorem icoRdPixReturnsThePixel : Obligations.IcoRdPixReturnsThePixel := by
  refine ⟨fun ch junk i => by simp [decodeWord],
    fun s ch i => ⟨fun habsent => ?_, fun v hc hv => ?_, fun hc hnone => ?_⟩⟩
  · exact congrArg Host.Outcome.next (s.withChannel_rejected ch _ habsent)
  · exact exec_icoRdPix_ret ch hc hv s.res
  · exact ⟨Config.freePixel s.drawn, congrArg Host.Outcome.next
      ((s.withChannel_of_exists ch _ hc).trans (s.retPixel_unwritten ch i.toNat hnone))⟩

/-- ICO.ADDBYTE on a channel that exists is the assembler's byte. -/
theorem exec_icoAddByte_of_exists (b : Byte) (hc : channelExists s.params ch) :
    exec (.icoAddByte ch b) s = .next ((s.icoAddByte ch b).ret 0) :=
  congrArg Host.Outcome.next (s.addByteOp_of_exists ch b hc)

/-- Settles O5: the three cases of the assembler's byte. -/
theorem icoAddByteAssemblesPairs : Obligations.IcoAddByteAssemblesPairs := by
  refine ⟨fun ch junk b => by simp [decodeWord],
    fun s ch b habsent => congrArg Host.Outcome.next (s.withChannel_rejected ch _ habsent), fun s ch b hc => ?_⟩
  rw [exec_icoAddByte_of_exists s ch b hc]
  refine ⟨fun hhigh => ?_, fun hlow hfull => ?_, fun hlow hcursor => ?_⟩
  · rw [s.icoAddByte_high ch b hhigh]
  · rw [s.icoAddByte_full ch b hlow (Nat.not_lt.2 hfull)]
  · rw [s.icoAddByte_store ch b hlow hcursor]
    have hsucc := cursor_succ _ hcursor
    refine ⟨_, rfl, ?_⟩
    rw [State.icoAt_ret, State.icoAt_setIco_same]
    refine ⟨Memory.pixelAt_storePixel_same _ _ _ _ _, hsucc, ?_, rfl, rfl, rfl, rfl⟩
    rw [hsucc, Bool.or_eq_true, decide_eq_true_eq]
    rfl

end Sys2Proof.Machine
end

section
/-! A stream of ICO.ADDBYTE: the completion law (R172) and the bytes after completion (R173). -/

namespace Sys2Proof.Machine

variable {s : State} {c b : Byte} {bytes : List Byte}

@[simp] theorem State.icoAddByte_ret (v : Word) : (s.ret v).icoAddByte c b = (s.icoAddByte c b).ret v :=
  s.icoAddByte_cases (fun t => (s.ret v).icoAddByte c b = t.ret v) c b
    ((s.ret v).icoAddByte_high c b) ((s.ret v).icoAddByte_store c b) ((s.ret v).icoAddByte_full c b)

@[simp] theorem State.icoAddBytes_ret (v : Word) : (s.ret v).icoAddBytes c bytes = (s.icoAddBytes c bytes).ret v := by
  induction bytes generalizing s with
  | nil => rfl
  | cons b rest ih => rw [State.icoAddBytes_cons, State.icoAddBytes_cons, State.icoAddByte_ret, ih]

/-- ICO.ADDBYTE for each byte, on a channel that exists, is the assembler's stream and the result 0; with no byte the
result port keeps its value (log entry 7). -/
theorem State.foldl_addByteOp (hc : channelExists s.params c) :
    bytes.foldl (fun s b => s.addByteOp c b) s = (s.icoAddBytes c bytes).ret (if bytes = [] then s.res else 0) := by
  induction bytes generalizing s with
  | nil => rfl
  | cons b rest ih =>
    rw [List.foldl_cons, s.addByteOp_of_exists c b hc, ih (by simpa using hc)]
    simp

/-- Settles O10: the run is the re-arming and the assembler's stream, of which the completion law speaks. -/
theorem iconCompletionLaw : Obligations.IconCompletionLaw := by
  intro s c bytes hc
  have hstart : exec (.icoStart c) s = .next ((s.icoStart c).ret 0) :=
    congrArg Host.Outcome.next (s.withChannel_of_exists c _ hc)
  have hrun : runOps (.icoStart c :: bytes.map (.icoAddByte c)) s =
      .next (((s.icoStart c).icoAddBytes c bytes).ret 0) := by
    rw [runOps_cons _ _ _ _ hstart, runOps_addBytes, State.foldl_addByteOp (by simpa using hc)]
    simp
  have h := s.icoAddBytes_streamed c bytes
  exact ⟨_, hrun, h.cursor, h.written, fun i hi hbeyond => h.kept c i hi fun ⟨_, hlt⟩ => Nat.not_lt.2 hbeyond hlt,
    h.ready, h.phase⟩

/-- With the cursor at the end a byte moves the phase and the holding register alone. -/
theorem State.icoAddByte_complete (hcursor : (s.icoAt c).cursor.toNat = 4096) :
    ∃ phase hi, s.icoAddByte c b = s.setIco c { s.icoAt c with phase := phase, hi := hi } :=
  s.icoAddByte_cases (fun t => ∃ phase hi, t = s.setIco c { s.icoAt c with phase := phase, hi := hi }) c b
    (high := fun _ => ⟨_, _, rfl⟩)
    (store := fun _ hlt => absurd hlt (by simp [hcursor, Config.npix]))
    (full := fun _ _ => ⟨_, _, rfl⟩)

/-- So does every stream. -/
theorem State.icoAddBytes_complete (hcursor : (s.icoAt c).cursor.toNat = 4096) :
    ∃ phase hi, s.icoAddBytes c bytes = s.setIco c { s.icoAt c with phase := phase, hi := hi } := by
  induction bytes using List.reverseRecOn with
  | nil => exact ⟨_, _, (s.setIco_self c).symm⟩
  | append_singleton bytes b ih =>
    obtain ⟨phase, hi, hbytes⟩ := ih
    obtain ⟨phase', hi', hbyte⟩ := (s.setIco c { s.icoAt c with phase := phase, hi := hi }).icoAddByte_complete
      (c := c) (b := b) (by simpa using hcursor)
    refine ⟨phase', hi', ?_⟩
    rw [State.icoAddBytes_concat, hbytes, hbyte]
    simp

/-- Settles O11: ICO.STREAM is the assembler's stream, and no byte of it meets a cursor within bounds. -/
theorem bytesAfterCompletionAreIgnored : Obligations.BytesAfterCompletionAreIgnored := by
  intro s c bytes hc hcursor
  obtain ⟨phase, hi, hbytes⟩ := State.icoAddBytes_complete (bytes := bytes) hcursor
  have hstream : exec (.icoStream c bytes) s = .next ((s.icoAddBytes c bytes).ret (if bytes = [] then s.res else 0)) :=
    congrArg Host.Outcome.next (State.foldl_addByteOp hc)
  exact ⟨phase, hi, hstream.trans (by rw [hbytes])⟩

end Sys2Proof.Machine
end

section
/-! What an operation of the driver leaves of the pixel memory (R9, R60, R68, R171). -/

namespace Sys2Proof.Machine

/-- Every byte of the pixel memory outside the two bytes of the pixel that is stored, if one is, reads as before. -/
def State.MemFrame (s t : State) (store : Option (Byte × Nat)) : Prop :=
  ∀ a, (∀ c k, store = some (c, k) → a ≠ pixelAddr c k ∧ a ≠ pixelAddr c k + 1) →
    Memory.byteAt t.mem a = Memory.byteAt s.mem a

variable {s t : State} {store : Option (Byte × Nat)}

theorem State.MemFrame.of_mem_eq (h : t.mem = s.mem) : s.MemFrame t store := fun a _ => by rw [h]

theorem State.withChannel_memFrame (ch : Byte) {body : State → State}
    (hbody : channelExists s.params ch → s.MemFrame (body s) store) : s.MemFrame (s.withChannel ch body) store :=
  s.withChannel_cases (s.MemFrame · store) ch body (fun _ => .of_mem_eq rfl) hbody

/-- A byte for the assembler stores the pixel it completes, if it completes one. -/
theorem State.icoAddByte_memFrame (s : State) (c b : Byte) : s.MemFrame (s.icoAddByte c b) (s.nextStore c) := by
  refine s.icoAddByte_cases (s.MemFrame · (s.nextStore c)) c b (fun _ => .of_mem_eq rfl) (fun hlow hcursor a ha => ?_)
    (fun _ _ => .of_mem_eq rfl)
  obtain ⟨hhigh, hnext⟩ := ha c _ (if_pos ⟨hlow, hcursor⟩)
  rw [State.setIco_mem, State.writePixel_mem, Memory.byteAt_storePixel, if_neg hnext, if_neg hhigh]

/-- A payload byte reaches the assembler when it is a pixel byte for a channel that exists. -/
theorem State.rxByteOp_memFrame (s : State) (b : Byte) : s.MemFrame (s.rxByteOp b) (s.storeOf (.rxByte b)) := by
  refine s.rxByteOp_cases (s.MemFrame · (s.storeOf (.rxByte b))) b (fun _ _ => .of_mem_eq s.hsRespond_mem)
    (fun _ _ _ => .of_mem_eq rfl) (fun _ _ => .of_mem_eq rfl) (fun _ _ => .of_mem_eq (by simp)) fun hactive hidx => ?_
  have hdata : s.MemFrame (s.rxData b) (s.storeOf (.rxByte b)) := by
    refine s.rxData_cases (s.MemFrame · (s.storeOf (.rxByte b))) b (fun _ => .of_mem_eq rfl)
      (fun _ _ => .of_mem_eq rfl) (fun _ _ hcmd hc => ?_) (fun _ _ _ => .of_mem_eq rfl)
    have hstore : s.storeOf (.rxByte b) = s.nextStore s.rx.ch := if_pos ⟨hactive, hcmd, hidx, hc⟩
    rw [hstore]
    exact s.icoAddByte_memFrame s.rx.ch b
  intro a ha
  rw [State.ret_mem, State.rxAdvance_mem]
  exact hdata a ha

/-- ICO.ADDBYTE and RX.BYTE store a pixel; the other operations of the driver leave the memory as it is. -/
theorem exec_local_memFrame {i : Instr} (hi : i.isLocal = true) (ht : exec i s = .next t) :
    s.MemFrame t (s.storeOf i) := by
  cases i with
  | rxByte b => cases ht; exact s.rxByteOp_memFrame b
  | icoAddByte ch b =>
    cases ht
    refine State.withChannel_memFrame ch fun hc => ?_
    have hstore : s.storeOf (.icoAddByte ch b) = s.nextStore ch := if_pos hc
    rw [hstore]
    exact s.icoAddByte_memFrame ch b
  | icoDraw ch x y =>
    cases ht
    refine State.withChannel_memFrame ch fun _ => .of_mem_eq ?_
    split <;> rfl
  | icoRdPix ch k =>
    cases ht
    obtain ⟨v, n, hread⟩ := s.retPixel_frame ch k.toNat
    exact State.withChannel_memFrame ch fun _ => .of_mem_eq (by rw [hread])
  | fadSample ch raw => cases ht; exact .of_mem_eq (s.sampleOp_mem ch raw)
  | icoStart ch | icoIsReady ch | icoSetPh ch | encTick ch | encGetDelta ch | encWasPressed ch =>
    cases ht
    exact State.withChannel_memFrame ch fun _ => .of_mem_eq rfl
  | nop | rxRearm | statRead | statClear | reservedF => cases ht; exact .of_mem_eq rfl
  | _ => cases hi

/-- Settles O12: the frame of every operation of the driver, without and with a pixel stored. -/
theorem memoryFrameOfDriverOperations : Obligations.MemoryFrameOfDriverOperations := by
  intro s t i _ hi ht
  have hframe := exec_local_memFrame hi ht
  refine ⟨fun hnone a => hframe a fun c k hstore => ?_, fun c k hstore a hhigh hlow => hframe a fun d j hother => ?_⟩
  · simp [hnone] at hstore
  · cases hstore.symm.trans hother
    exact ⟨hhigh, hlow⟩

end Sys2Proof.Machine
end

section
/-! One FAD.SAMPLE, whole (R200 to R204), and the filter's law on a taken sample (R202). -/

namespace Sys2Proof.Machine

/-! ## The tests of the rate limit and of the gate -/

theorem sampleDue_eq_false_iff (now : Time) (r : FadRec) : sampleDue now r = false ↔ (now - r.t).toNat < 20 := by
  rw [← Bool.not_eq_true, sampleDue_iff, Nat.not_le]

theorem gateOpens_iff (deadband : Nat) (r : FadRec) (q : Byte) :
    gateOpens deadband r q = true ↔ r.sentValid = false ∨ deadband < distance q r.sent := by
  simp [gateOpens]

/-- Settles O13: the premises name the values of the filter and of the quantiser, and each case of the operation
meets its branch. -/
theorem fadSampleFiltersQuantisesAndGates : Obligations.FadSampleFiltersQuantisesAndGates := by
  refine ⟨fun ch junk raw => by simp [decodeWord], fun s ch raw f q hf hq => congrArg Host.Outcome.next ?_⟩
  rw [← filt_toNat] at hf
  subst hf
  rw [← quant_toNat] at hq
  subst hq
  simp only [BitVec.ofNat_toNat, BitVec.setWidth_eq]
  have hgate := gateOpens_iff s.params.deadband (s.fadAt ch) (quant (filt (s.fadAt ch) raw))
  rw [distance] at hgate
  apply s.sampleOp_cases (fun t => t = _) ch raw
  case absent =>
    intro habsent
    rw [if_pos (Nat.not_lt.1 habsent)]
    rfl
  case skipped =>
    intro hc hskip
    rw [if_neg (Nat.not_le.2 hc), if_pos ((sampleDue_eq_false_iff _ _).1 hskip)]
    rfl
  case silent =>
    intro hc hdue hclosed
    rw [if_neg (Nat.not_le.2 hc), if_neg (Nat.not_lt.2 ((sampleDue_iff _ _).1 hdue)),
      if_neg (hgate.not.1 (Bool.not_eq_true _ ▸ hclosed))]
    rfl
  case reports =>
    intro hc hdue hopen
    rw [if_neg (Nat.not_le.2 hc), if_neg (Nat.not_lt.2 ((sampleDue_iff _ _).1 hdue)), if_pos (hgate.1 hopen)]
    rfl

/-! ## What a taken sample leaves in the record -/

/-- A taken sample sets the timestamp and the filter, whether it reports or not (R200). -/
theorem State.sampleOp_taken (s : State) {c : Byte} (raw : BitVec 10) (hc : channelExists s.params c)
    (hdue : 20 ≤ (s.ports.now - (s.fadAt c).t).toNat) :
    ((s.sampleOp c raw).fadAt c).valid = true ∧ ((s.sampleOp c raw).fadAt c).filt = filt (s.fadAt c) raw ∧
      ((s.sampleOp c raw).fadAt c).t = s.ports.now := by
  rw [← sampleDue_iff] at hdue
  apply s.sampleOp_cases (fun t => (t.fadAt c).valid = true ∧ (t.fadAt c).filt = filt (s.fadAt c) raw ∧
    (t.fadAt c).t = s.ports.now) c raw
  case absent => exact fun habsent => absurd hc habsent
  case skipped => exact fun _ hskip => absurd hdue (Bool.not_eq_true _ ▸ hskip)
  case silent => exact fun _ _ _ => by simp [FadRec.sampled]
  case reports => exact fun _ _ _ => by simp [FadRec.sampled]

/-! ## The filter after the first sample, on numbers -/

/-- The filter's new value from the reading and the old value (R202). -/
def smooth (raw f : Nat) : Nat := (f * 3 + raw) / 4

theorem filt_toNat_of_valid {r : FadRec} (h : r.valid = true) (raw : BitVec 10) :
    (filt r raw).toNat = smooth raw.toNat r.filt.toNat := by
  rw [filt_toNat, if_pos h]
  rfl

theorem min_le_smooth (raw f : Nat) : min f raw ≤ smooth raw f := by
  unfold smooth
  omega

theorem smooth_le_max (raw f : Nat) : smooth raw f ≤ max f raw := by
  unfold smooth
  omega

/-- The filter stalls below a reading less than 4 above it, and nowhere else (R202). -/
theorem smooth_eq_self_iff (raw f : Nat) : smooth raw f = f ↔ f ≤ raw ∧ raw ≤ f + 3 := by
  unfold smooth
  omega

theorem filt_of_filt_eq {r : FadRec} {raw : BitVec 10} (hvalid : r.valid = true) (h : r.filt = raw) :
    filt r raw = raw := by
  subst h
  apply BitVec.eq_of_toNat_eq
  rw [filt_toNat_of_valid hvalid, smooth_eq_self_iff]
  omega

/-- Settles O14: a taken sample leaves the filter's new value, which is `smooth` of the reading and the old one. -/
theorem filterStaysBetweenAndStalls : Obligations.FilterStaysBetweenAndStalls := by
  intro s t ch raw hc hvalid hdue ht
  cases ht
  obtain ⟨-, hfilt, -⟩ := s.sampleOp_taken raw hc hdue
  rw [hfilt, ← BitVec.toNat_inj, filt_toNat_of_valid hvalid]
  exact ⟨min_le_smooth _ _, smooth_le_max _ _, smooth_eq_self_iff _ _⟩

end Sys2Proof.Machine
end

section
/-! Runs of samples of one fader with a constant reading: idle silence (R205) and convergence (R206). -/

namespace Sys2Proof.Machine

variable {s : State} {c : Byte} {raw : BitVec 10}

/-- Samples of channel `c` with the reading `raw`, one at each of the times. -/
def State.samplesAt (s : State) (c : Byte) (raw : BitVec 10) (times : List Time) : State :=
  times.foldl (fun s now => (s.atTime now).sampleOp c raw) s

theorem State.samplesAt_cons (now : Time) (times : List Time) :
    s.samplesAt c raw (now :: times) = ((s.atTime now).sampleOp c raw).samplesAt c raw times := rfl

theorem runAt_samples (s : State) (c : Byte) (raw : BitVec 10) (times : List Time) :
    runAt (times.map (fun now => (now, .fadSample c raw))) s = .next (s.samplesAt c raw times) := by
  induction times generalizing s with
  | nil => rfl
  | cons now rest ih => exact ih ((s.atTime now).sampleOp c raw)

/-! ## Idle silence (R205) -/

/-- The fader rests at a reading: the filter holds it and the host has been told its quantised value. -/
structure FadRec.RestsAt (r : FadRec) (raw : BitVec 10) : Prop where
  valid : r.valid = true
  filt : r.filt = raw
  sentValid : r.sentValid = true
  sent : r.sent = quant raw

/-- Another sample of the same reading leaves the filter where it is, so the gate stays shut. -/
theorem State.sampleOp_of_restsAt (h : (s.fadAt c).RestsAt raw) :
    ((s.sampleOp c raw).fadAt c).RestsAt raw ∧ (s.sampleOp c raw).tx = s.tx := by
  have hfilt : filt (s.fadAt c) raw = raw := filt_of_filt_eq h.valid h.filt
  apply s.sampleOp_cases (fun t => (t.fadAt c).RestsAt raw ∧ t.tx = s.tx) c raw
  case absent => exact fun _ => ⟨h, rfl⟩
  case skipped => exact fun _ _ => ⟨h, rfl⟩
  case silent =>
    intro _ _ _
    rw [State.fadAt_ret, State.fadAt_setFad_same]
    exact ⟨⟨rfl, hfilt, h.sentValid, h.sent⟩, rfl⟩
  case reports =>
    intro _ _ hopen
    rw [hfilt, gateOpens_iff, h.sentValid, h.sent, distance_self] at hopen
    simp at hopen

theorem State.samplesAt_of_restsAt (times : List Time) (h : (s.fadAt c).RestsAt raw) :
    ((s.samplesAt c raw times).fadAt c).RestsAt raw ∧ (s.samplesAt c raw times).tx = s.tx := by
  induction times generalizing s with
  | nil => exact ⟨h, rfl⟩
  | cons now rest ih =>
    obtain ⟨hrests, htx⟩ := State.sampleOp_of_restsAt (s := s.atTime now) h
    obtain ⟨hrests', htx'⟩ := ih hrests
    exact ⟨hrests', htx'.trans htx⟩

/-- The first sample seeds the filter with the reading and reports it whatever it is (R202, R204). -/
theorem State.sampleOp_first (hc : channelExists s.params c) (hvalid : (s.fadAt c).valid = false)
    (hsent : (s.fadAt c).sentValid = false) (hdue : 20 ≤ (s.ports.now - (s.fadAt c).t).toNat) :
    ((s.sampleOp c raw).fadAt c).RestsAt raw ∧
      (s.sampleOp c raw).tx = s.tx ++ [0x10, c, BitVec.ofNat 8 (raw.toNat * 255 / 1023)] := by
  have hfilt : filt (s.fadAt c) raw = raw := by simp [filt, hvalid]
  rw [s.sampleOp_reports c raw hc ((sampleDue_iff _ _).2 hdue) ((gateOpens_iff _ _ _).2 (.inl hsent)), hfilt,
    State.fadAt_ret, State.fadAt_sendMessage, State.fadAt_setFad_same]
  exact ⟨⟨rfl, hfilt, rfl, rfl⟩, rfl⟩

/-- Settles O15: the first sample reports, and from then on the fader rests. -/
theorem faderIdleSilence : Obligations.FaderIdleSilence := by
  intro s c raw first later hc hvalid hsent hdue
  obtain ⟨hrests, htx⟩ := State.sampleOp_first (s := s.atTime first) (raw := raw) hc hvalid hsent hdue
  obtain ⟨hrests', htx'⟩ := State.samplesAt_of_restsAt later hrests
  exact ⟨_, runAt_samples s c raw (first :: later), hrests'.valid, hrests'.filt, htx'.trans htx⟩

/-! ## Convergence under truncation (R206) -/

/-- A run of taken samples iterates the filter on the reading. -/
theorem State.samplesAt_filt (times : List Time) (hc : channelExists s.params c) (hvalid : (s.fadAt c).valid = true)
    (hdue : samplesDue (s.fadAt c).t times) :
    ((s.samplesAt c raw times).fadAt c).filt.toNat = (smooth raw.toNat)^[times.length] (s.fadAt c).filt.toNat := by
  induction times generalizing s with
  | nil => rfl
  | cons now rest ih =>
    obtain ⟨hnow, hrest⟩ := hdue
    obtain ⟨hvalid', hfilt, ht⟩ := (s.atTime now).sampleOp_taken raw hc hnow
    rw [State.samplesAt_cons, ih (by simpa using hc) hvalid' (ht ▸ hrest), hfilt, State.fadAt_atTime,
      filt_toNat_of_valid hvalid, List.length_cons, Function.iterate_succ_apply]

/-- From above, each sample brings the filter at least 1 nearer and never past the reading. -/
theorem iterate_smooth_from_above {raw f n : Nat} (habove : raw ≤ f) (hn : f - raw ≤ n) :
    (smooth raw)^[n] f = raw := by
  induction n generalizing f with
  | zero =>
    rw [Function.iterate_zero_apply]
    omega
  | succ n ih =>
    have hstep : raw ≤ smooth raw f ∧ smooth raw f - raw ≤ f - raw - 1 := by
      unfold smooth
      omega
    exact ih hstep.1 (by omega)

/-- From below, each sample brings the filter at least 1 nearer until it stalls 3 below the reading. -/
theorem iterate_smooth_from_below {raw f n : Nat} (hbelow : f + 3 ≤ raw) (hn : raw - 3 - f ≤ n) :
    (smooth raw)^[n] f + 3 = raw := by
  induction n generalizing f with
  | zero =>
    rw [Function.iterate_zero_apply]
    omega
  | succ n ih =>
    have hstep : smooth raw f + 3 ≤ raw ∧ raw - 3 - smooth raw f ≤ raw - 3 - f - 1 := by
      unfold smooth
      omega
    exact ih hstep.1 (by omega)

/-- Settles O16: the run iterates the filter, which converges from either side. -/
theorem filterConvergence : Obligations.FilterConvergence := by
  intro s c raw times hc hvalid hdue
  have hfilt := State.samplesAt_filt (raw := raw) times hc hvalid hdue
  refine ⟨_, runAt_samples s c raw times, fun habove hn => BitVec.eq_of_toNat_eq ?_, fun hbelow hn => ?_⟩
  · rw [hfilt, iterate_smooth_from_above habove hn]
  · rw [hfilt, iterate_smooth_from_below hbelow hn]

end Sys2Proof.Machine
end

section
/-! What the host may lag by (R207): the gate at the filter's own value stays shut. -/

namespace Sys2Proof.Machine

variable {s t : State} {c : Byte}

/-- A channel with a value lags by at most DEADBAND exactly when the gate would not let that value through again. -/
theorem State.lagBounded_iff_gate : s.lagBounded c ↔ ((s.fadAt c).valid = true →
    gateOpens s.params.deadband (s.fadAt c) (quant (s.fadAt c).filt) = false) := by
  rw [gateOpens_false, distance, quant_toNat]
  rfl

/-- The lag is read from the fader's record and the parameters. -/
theorem State.lagBounded.congr (h : s.lagBounded c) (hparams : t.params = s.params) (hfad : t.fad = s.fad) :
    t.lagBounded c := by
  unfold State.lagBounded State.fadAt
  rw [hparams, hfad]
  exact h

/-- A taken sample passes the gate or is reported, which shuts the gate; the other channels keep their records. -/
theorem State.lagBounded.sampleOp (h : s.lagBounded c) (ch : Byte) (raw : BitVec 10) :
    (s.sampleOp ch raw).lagBounded c := by
  by_cases hch : c = ch
  · subst hch
    apply s.sampleOp_cases (fun t => t.lagBounded c) c raw
    case absent => exact fun _ => h
    case skipped => exact fun _ _ => h
    case silent =>
      intro _ _ hclosed
      rw [State.lagBounded_iff_gate, State.fadAt_ret, State.fadAt_setFad_same]
      exact fun _ => hclosed
    case reports =>
      intro _ _ _
      rw [State.lagBounded_iff_gate, State.fadAt_ret, State.fadAt_sendMessage, State.fadAt_setFad_same, gateOpens_false]
      exact fun _ => ⟨rfl, (distance_self _).trans_le (Nat.zero_le _)⟩
  · unfold State.lagBounded
    rw [s.sampleOp_fadAt_ne ch c raw hch, State.sampleOp_params]
    exact h

/-- FAD.SAMPLE is the one operation of the driver that writes a fader. -/
theorem exec_local_fad {i : Instr} (hi : i.isLocal = true) (hsample : ∀ ch raw, i ≠ .fadSample ch raw)
    (ht : exec i s = .next t) : t.fad = s.fad := by
  cases i with
  | fadSample ch raw => exact absurd rfl (hsample ch raw)
  | rxByte b => cases ht; exact s.rxByteOp_fad b
  | icoAddByte ch b => cases ht; exact s.withChannel_eq State.fad ch rfl (s.icoAddByte_fad ch b)
  | icoDraw ch x y =>
    cases ht
    refine s.withChannel_eq State.fad ch rfl ?_
    split
    · rfl
    · rfl
  | icoRdPix ch k =>
    cases ht
    obtain ⟨v, n, hread⟩ := s.retPixel_frame ch k.toNat
    exact s.withChannel_eq State.fad ch rfl (by rw [hread])
  | icoStart ch | icoIsReady ch | icoSetPh ch | encTick ch | encGetDelta ch | encWasPressed ch =>
    cases ht
    exact s.withChannel_eq State.fad ch rfl rfl
  | nop | rxRearm | statRead | statClear | reservedF => cases ht; rfl
  | _ => cases hi

/-- FAD.SAMPLE keeps the bound by its gate, and nothing else writes a fader. -/
theorem exec_keeps_lagBounded (i : Instr) (h : ∀ c, s.lagBounded c) :
    ∃ t, exec i s = .next t ∧ ∀ c, t.lagBounded c := by
  apply exec_keeps (fun s => ∀ c, s.lagBounded c) (i := i) (h := h)
  case driver =>
    intro s i hi h
    obtain ⟨t, ht, hparams, -, -⟩ := exec_local_sameInputs s i hi
    refine ⟨t, ht, fun c => ?_⟩
    by_cases hsample : ∃ ch raw, i = .fadSample ch raw
    · obtain ⟨ch, raw, rfl⟩ := hsample
      cases ht
      exact (h c).sampleOp ch raw
    · exact (h c).congr hparams (exec_local_fad hi (fun ch raw e => hsample ⟨ch, raw, e⟩) ht)
  case announce => exact fun s h c => (h c).congr s.hsRespond_params s.hsRespond_fad
  case report =>
    exact fun s ch _ h c => s.withChannel_cases (·.lagBounded c) ch _ (fun _ => h c) (fun _ => h c)

/-- Settles O17: the state the operation leaves is the one that keeps the bound. -/
theorem hostLagsByAtMostDeadband : Obligations.HostLagsByAtMostDeadband := by
  intro s t i h ht
  obtain ⟨u, hu, hlag⟩ := exec_keeps_lagBounded i h
  cases hu.symm.trans ht
  exact hlag

end Sys2Proof.Machine
end

section
/-! The operations of the encoder, one by one (R220 to R225). -/

namespace Sys2Proof.Machine

variable {s : State} {c : Byte}

@[simp] theorem State.setEnc_ret (r : EncRec) (v : Word) : (s.ret v).setEnc c r = (s.setEnc c r).ret v := rfl

/-- An operation whose body, issued again, only returns 0, does so behind the channel check too: the rejection repeats
itself. -/
theorem State.withChannel_again {body : State → State} (hparams : (body s).params = s.params)
    (hbody : body (body s) = (body s).ret 0) :
    (s.withChannel c body).withChannel c body = (s.withChannel c body).ret 0 := by
  refine s.withChannel_cases (fun u => u.withChannel c body = u.ret 0) c body (fun hc => ?_) (fun hc => ?_)
  · rw [State.withChannel_of_absent ((s.flag .chRange).ret 0) c body hc]
    simp
  · rw [State.withChannel_of_exists (body s) c body (hparams ▸ hc), hbody]

/-! ## ENC.TICK (R220 to R223) -/

/-- The latch is set by an accepted press and by nothing else (R222). -/
theorem btn_btnPressed_eq_ite (pressed : Bool) (now : Time) (r : EncRec) (sw : Bool) :
    (btn pressed now r sw).btnPressed =
      if levelAccepted now r sw = true ∧ sw = pressed then true else r.btnPressed := by
  rw [btn_btnPressed]
  split
  · next hset =>
    obtain ⟨haccepted, hpress⟩ := hset
    rw [haccepted, beq_iff_eq.2 hpress]
    exact Bool.or_true _
  · next hunset =>
    rw [← beq_iff_eq (a := sw), ← Bool.and_eq_true, Bool.not_eq_true] at hunset
    rw [hunset, Bool.or_false]

theorem timerAfter_eq_ite (now : Time) (r : EncRec) (sw : Bool) :
    timerAfter now r sw = if sw = r.btnRawPrev then r.btnT else now := by
  split
  · next hsteady => rw [hsteady, timerAfter_steady]
  · next hchanged => exact timerAfter_changed now r sw hchanged

/-- The record ENC.TICK leaves, register by register (R220 to R223). -/
theorem btn_rot_eq (pressed : Bool) (now : Time) (r : EncRec) (clk dt sw : Bool) :
    btn pressed now (rot r clk dt) sw =
      { pos := r.pos + BitVec.ofInt 32 (rotDelta r.clkPrev clk dt)
        last := r.last
        clkPrev := clk
        btnState := if levelAccepted now r sw = true then sw else r.btnState
        btnRawPrev := sw
        btnT := timerAfter now r sw
        btnPressed := if levelAccepted now r sw = true ∧ sw = pressed then true else r.btnPressed } := by
  rw [← rot_pos, ← btn_btnPressed_eq_ite]
  rfl

/-- Settles O18: the premises name the debounce timer and the acceptance, and the record is `btn` after `rot`. -/
theorem encTickDecodesAndDebounces : Obligations.EncTickDecodesAndDebounces := by
  refine ⟨fun ch junk clk dt sw => by simp [decodeWord], fun s ch clk dt sw timer accepted htimer haccepted =>
    congrArg Host.Outcome.next ?_⟩
  rw [← timerAfter_eq_ite] at htimer
  subst htimer
  rw [← levelAccepted_iff, Bool.coe_iff_coe] at haccepted
  subst haccepted
  rw [← btn_rot_eq]
  exact s.withChannel_eq_ite ch _

/-! ## The two one-shot reads (R224, R225) -/

/-- ENC.GETDELTA behind its channel check: the baseline moves, the difference is returned (R224). -/
def State.deltaRead (s : State) (c : Byte) : State :=
  (s.setEnc c { s.encAt c with last := (s.encAt c).pos }).ret ((s.encAt c).pos - (s.encAt c).last)

theorem exec_encGetDelta (s : State) (c : Byte) :
    exec (.encGetDelta c) s = .next (s.withChannel c (·.deltaRead c)) := rfl

theorem State.deltaRead_res : (s.deltaRead c).res = (s.encAt c).pos - (s.encAt c).last := rfl

theorem State.encAt_deltaRead : (s.deltaRead c).encAt c = { s.encAt c with last := (s.encAt c).pos } :=
  State.encAt_setEnc_same ..

theorem State.deltaRead_deltaRead : (s.deltaRead c).deltaRead c = (s.deltaRead c).ret 0 := by simp [State.deltaRead]

theorem exec_encGetDelta_of_exists (hc : channelExists s.params c) : exec (.encGetDelta c) s = .next (s.deltaRead c) :=
  congrArg Host.Outcome.next (s.withChannel_of_exists c _ hc)

/-- ENC.WASPRESSED behind its channel check: the latch is cleared, its value returned (R225). -/
def State.pressRead (s : State) (c : Byte) : State :=
  (s.setEnc c { s.encAt c with btnPressed := false }).ret (flagResult (s.encAt c).btnPressed)

theorem exec_encWasPressed (s : State) (c : Byte) :
    exec (.encWasPressed c) s = .next (s.withChannel c (·.pressRead c)) := rfl

theorem State.pressRead_res : (s.pressRead c).res = flagResult (s.encAt c).btnPressed := rfl

theorem State.encAt_pressRead : (s.pressRead c).encAt c = { s.encAt c with btnPressed := false } :=
  State.encAt_setEnc_same ..

theorem State.pressRead_pressRead : (s.pressRead c).pressRead c = (s.pressRead c).ret 0 := by simp [State.pressRead]

theorem exec_encWasPressed_of_exists (hc : channelExists s.params c) :
    exec (.encWasPressed c) s = .next (s.pressRead c) :=
  congrArg Host.Outcome.next (s.withChannel_of_exists c _ hc)

/-- Settles O19: the body reads the difference and moves the baseline, so that a second reading finds none. -/
theorem getDeltaIsOneShot : Obligations.GetDeltaIsOneShot := by
  refine ⟨fun ch arg => by simp [decodeWord], fun s ch => ?_, fun s t ch ht => ?_⟩
  · rw [exec_encGetDelta, s.withChannel_eq_ite ch]
    rfl
  · cases ht
    exact congrArg Host.Outcome.next (State.withChannel_again rfl State.deltaRead_deltaRead)

/-- Settles O21: the body reads the latch and clears it, so that a second reading finds it clear. -/
theorem wasPressedIsOneShot : Obligations.WasPressedIsOneShot := by
  refine ⟨fun ch arg => by simp [decodeWord], fun s ch => ?_, fun s t ch ht => ?_⟩
  · rw [exec_encWasPressed, s.withChannel_eq_ite ch, ← flagResult_eq]
    rfl
  · cases ht
    exact ⟨_, congrArg Host.Outcome.next (State.withChannel_again rfl State.pressRead_pressRead), rfl⟩

end Sys2Proof.Machine
end

section
/-! Runs of ENC.TICK of one encoder, and the net steps between two readings (R223, R224). -/

namespace Sys2Proof.Machine

variable {s : State} {c : Byte}

/-- Ticks of channel `c`, each with its time and the levels `clk`, `dt` and `sw`. -/
def State.ticksAt (s : State) (c : Byte) (ticks : List (Time × Bool × Bool × Bool)) : State :=
  ticks.foldl (fun s x => (s.atTime x.1).tickOp c x.2.1 x.2.2.1 x.2.2.2) s

/-- What one tick at its time and levels makes of the encoder record. -/
def EncRec.tick (pressedLevel : Bool) (r : EncRec) (x : Time × Bool × Bool × Bool) : EncRec :=
  btn pressedLevel x.1 (rot r x.2.1 x.2.2.1) x.2.2.2

theorem runAt_ticks (s : State) (c : Byte) (ticks : List (Time × Bool × Bool × Bool)) :
    runAt (ticks.map (fun x => (x.1, .encTick c x.2.1 x.2.2.1 x.2.2.2))) s = .next (s.ticksAt c ticks) := by
  induction ticks generalizing s with
  | nil => rfl
  | cons x rest ih => exact ih ((s.atTime x.1).tickOp c x.2.1 x.2.2.1 x.2.2.2)

theorem State.ticksAt_cons (x : Time × Bool × Bool × Bool) (ticks : List (Time × Bool × Bool × Bool)) :
    s.ticksAt c (x :: ticks) = ((s.atTime x.1).tickOp c x.2.1 x.2.2.1 x.2.2.2).ticksAt c ticks := rfl

@[simp] theorem State.ticksAt_params (ticks : List (Time × Bool × Bool × Bool)) :
    (s.ticksAt c ticks).params = s.params := by
  induction ticks generalizing s with
  | nil => rfl
  | cons x rest ih => rw [State.ticksAt_cons, ih, State.tickOp_params, State.atTime_params]

/-- A run of ticks folds the record's tick over the list. -/
theorem State.encAt_ticksAt (hc : channelExists s.params c) (ticks : List (Time × Bool × Bool × Bool)) :
    (s.ticksAt c ticks).encAt c = ticks.foldl (EncRec.tick s.params.pressedLevel) (s.encAt c) := by
  induction ticks generalizing s with
  | nil => rfl
  | cons x rest ih =>
    have hrecord : ((s.atTime x.1).tickOp c x.2.1 x.2.2.1 x.2.2.2).encAt c =
        (s.encAt c).tick s.params.pressedLevel x := by
      rw [(s.atTime x.1).tickOp_of_exists c _ _ _ hc, State.encAt_ret, State.encAt_setEnc_same]
      rfl
    rw [State.ticksAt_cons, ih (by simpa using hc), hrecord, State.tickOp_params]
    rfl

/-- Ticks move the position by the net number of counted steps and leave the baseline. -/
theorem EncRec.foldl_tick_pos (pressedLevel : Bool) (ticks : List (Time × Bool × Bool × Bool)) (r : EncRec) :
    (ticks.foldl (EncRec.tick pressedLevel) r).pos =
        r.pos + BitVec.ofInt 32 (netSteps r.clkPrev (ticks.map (fun x => (x.2.1, x.2.2.1)))) ∧
      (ticks.foldl (EncRec.tick pressedLevel) r).last = r.last := by
  induction ticks generalizing r with
  | nil => exact ⟨(BitVec.add_zero _).symm, rfl⟩
  | cons x rest ih =>
    obtain ⟨hpos, hlast⟩ := ih (r.tick pressedLevel x)
    have hstep : (r.tick pressedLevel x).pos = r.pos + BitVec.ofInt 32 (rotDelta r.clkPrev x.2.1 x.2.2.1) :=
      rot_pos r x.2.1 x.2.2.1
    refine ⟨?_, hlast⟩
    rw [List.foldl_cons, hpos, hstep, BitVec.add_assoc, ← BitVec.ofInt_add]
    rfl

/-- After a run of ticks ENC.GETDELTA has the net steps to add to what it had to return before. -/
theorem State.ticksAt_delta (hc : channelExists s.params c) (ticks : List (Time × Bool × Bool × Bool)) :
    ((s.ticksAt c ticks).encAt c).pos - ((s.ticksAt c ticks).encAt c).last = (s.encAt c).pos - (s.encAt c).last +
      BitVec.ofInt 32 (netSteps (s.encAt c).clkPrev (ticks.map (fun x => (x.2.1, x.2.2.1)))) := by
  obtain ⟨hpos, hlast⟩ := EncRec.foldl_tick_pos s.params.pressedLevel ticks (s.encAt c)
  rw [State.encAt_ticksAt hc, hpos, hlast, BitVec.add_sub_comm]

theorem runAt_cons {now : Time} {i : Instr} {rest : List (Time × Instr)} {t : State}
    (h : exec i (s.atTime now) = .next t) : runAt ((now, i) :: rest) s = runAt rest t := by
  rw [runAt, h]

/-- Settles O20: the first reading leaves nothing to return, and the ticks add their net steps. -/
theorem getDeltaReturnsNetSteps : Obligations.GetDeltaReturnsNetSteps := by
  rintro s c t0 t1 ticks net hc rfl
  set u := (s.atTime t0).deltaRead c with hu
  set v := (u.ticksAt c ticks).atTime t1 with hv
  have hfirst : exec (.encGetDelta c) (s.atTime t0) = .next u := exec_encGetDelta_of_exists hc
  have hvparams : v.params = s.params := State.ticksAt_params (s := u) ticks
  have hsecond : exec (.encGetDelta c) v = .next (v.deltaRead c) := exec_encGetDelta_of_exists (hvparams ▸ hc)
  have hres : (v.deltaRead c).res =
      BitVec.ofInt 32 (netSteps (s.encAt c).clkPrev (ticks.map (fun x => (x.2.1, x.2.2.1)))) := by
    rw [State.deltaRead_res, hv, State.encAt_atTime, State.ticksAt_delta (s := u) hc, hu, State.encAt_deltaRead]
    simp
  rw [List.cons_append, runAt_cons hfirst, runAt_append _ _ _ _ (runAt_ticks u c ticks), runAt_cons hsecond]
  refine ⟨v.deltaRead c, rfl, hres, fun hlow hhigh => ?_⟩
  rw [hres]
  exact BitVec.toInt_ofInt_eq_self (by decide) hlow hhigh

end Sys2Proof.Machine
end

section
/-! The debounce over a hold of one level (R226): absorbed while it lasts no longer than the window, accepted at the
first tick after it, and accepted once. -/

namespace Sys2Proof.Machine

variable {s : State} {c : Byte} {r r' : EncRec} {pressed sw clk dt : Bool} {t0 t : Nat}

/-! ## The record -/

/-- Since the time `since` the raw level is `sw`, and the record has kept the debounced level and the latch of `r`. -/
structure EncRec.Holds (r r' : EncRec) (sw : Bool) (since : Time) : Prop where
  btnRawPrev : r'.btnRawPrev = sw
  btnT : r'.btnT = since
  btnState : r'.btnState = r.btnState
  btnPressed : r'.btnPressed = r.btnPressed

/-- A tick that does not accept its level keeps the debounced level and the latch. -/
theorem EncRec.holds_tick_of_unaccepted {now : Time} (h : levelAccepted now r sw = false) :
    r.Holds (r.tick pressed (now, clk, dt, sw)) sw (timerAfter now r sw) where
  btnRawPrev := rfl
  btnT := rfl
  btnState := by simp [EncRec.tick, h]
  btnPressed := by simp [EncRec.tick, h]

/-- A change of the raw level restarts the timer, and the level is not accepted on that tick. -/
theorem EncRec.holds_tick_of_changed {now : Time} (h : sw ≠ r.btnRawPrev) :
    r.Holds (r.tick pressed (now, clk, dt, sw)) sw now := by
  have htimer := timerAfter_changed now r sw h
  have hunaccepted : levelAccepted now r sw = false := by
    rw [← Bool.not_eq_true, levelAccepted_iff, htimer]
    simp
  have hstep := EncRec.holds_tick_of_unaccepted (pressed := pressed) (clk := clk) (dt := dt) hunaccepted
  rwa [htimer] at hstep

theorem clock_sub_clock_toNat (hle : t0 ≤ t) (hlt : t < t0 + 2 ^ 32) : (clock t - clock t0).toNat = t - t0 := by
  rw [clock, clock, BitVec.toNat_sub, BitVec.toNat_ofNat, BitVec.toNat_ofNat]
  omega

theorem EncRec.Holds.timerAfter_eq (h : r.Holds r' sw (clock t0)) (now : Time) : timerAfter now r' sw = clock t0 := by
  rw [← h.btnT, ← h.btnRawPrev, timerAfter_steady]

/-- Within the window the held level is not accepted, so the hold goes on. -/
theorem EncRec.Holds.tick (h : r.Holds r' sw (clock t0)) (hle : t0 ≤ t) (hwindow : t ≤ t0 + 50) :
    r.Holds (r'.tick pressed (clock t, clk, dt, sw)) sw (clock t0) := by
  have hunaccepted : levelAccepted (clock t) r' sw = false := by
    rw [← Bool.not_eq_true, levelAccepted_iff, h.timerAfter_eq, clock_sub_clock_toNat hle (by omega)]
    omega
  have hstep := EncRec.holds_tick_of_unaccepted (pressed := pressed) (clk := clk) (dt := dt) hunaccepted
  exact ⟨hstep.btnRawPrev, hstep.btnT.trans (h.timerAfter_eq _), hstep.btnState.trans h.btnState,
    hstep.btnPressed.trans h.btnPressed⟩

/-- After the window a level that is new is accepted, and the pressed level sets the latch. -/
theorem EncRec.Holds.tick_accepted (h : r.Holds r' sw (clock t0)) (hnew : sw ≠ r.btnState) (hafter : t0 + 50 < t)
    (hlt : t < t0 + 2 ^ 32) :
    (r'.tick sw (clock t, clk, dt, sw)).btnState = sw ∧ (r'.tick sw (clock t, clk, dt, sw)).btnPressed = true := by
  have haccepted : levelAccepted (clock t) r' sw = true := by
    rw [levelAccepted_iff, h.timerAfter_eq, clock_sub_clock_toNat (by omega) hlt, h.btnState]
    exact ⟨by omega, hnew⟩
  simp [EncRec.tick, haccepted]

/-- The debounced level itself is never accepted again, so ticks at it keep it and the latch. -/
theorem EncRec.tick_of_settled {now : Time} (h : r.btnState = sw) :
    (r.tick pressed (now, clk, dt, sw)).btnState = sw ∧
      (r.tick pressed (now, clk, dt, sw)).btnPressed = r.btnPressed := by
  subst h
  simp [EncRec.tick]

/-! ## Runs of ticks at one level -/

/-- Ticks that all see the button at the level `sw`. -/
def heldTicks (sw : Bool) (ticks : List (Nat × Bool × Bool)) : List (Time × Bool × Bool × Bool) :=
  ticks.map (fun x => (clock x.1, x.2.1, x.2.2, sw))

theorem runAt_heldTicks (s : State) (c : Byte) (sw : Bool) (ticks : List (Nat × Bool × Bool)) :
    runAt (ticks.map (fun x => (clock x.1, .encTick c x.2.1 x.2.2 sw))) s =
      .next (s.ticksAt c (heldTicks sw ticks)) := by
  rw [← runAt_ticks, heldTicks, List.map_map]
  rfl

/-- A hold of a level from its first tick on, all within the window. -/
theorem EncRec.holds_foldl_tick {ticks : List (Nat × Bool × Bool)} (hchanged : sw ≠ r.btnRawPrev)
    (hticks : ∀ x ∈ ticks, t0 ≤ x.1 ∧ x.1 ≤ t0 + 50) :
    r.Holds ((heldTicks sw ((t0, clk, dt) :: ticks)).foldl (EncRec.tick pressed) r) sw (clock t0) := by
  rw [heldTicks, List.foldl_map, List.foldl_cons]
  refine List.foldlRecOn (motive := fun r' => r.Holds r' sw (clock t0)) ticks _
    (EncRec.holds_tick_of_changed hchanged) (fun r' h x hx => ?_)
  obtain ⟨hle, hwindow⟩ := hticks x hx
  exact h.tick hle hwindow

theorem EncRec.foldl_tick_of_settled (ticks : List (Nat × Bool × Bool)) (h : r.btnState = sw) :
    ((heldTicks sw ticks).foldl (EncRec.tick pressed) r).btnState = sw ∧
      ((heldTicks sw ticks).foldl (EncRec.tick pressed) r).btnPressed = r.btnPressed := by
  rw [heldTicks, List.foldl_map]
  refine List.foldlRecOn (motive := fun r' : EncRec => r'.btnState = sw ∧ r'.btnPressed = r.btnPressed) ticks _ ⟨h, rfl⟩
    (fun r' h' x _ => ?_)
  obtain ⟨hstate, hpressed⟩ := h'
  obtain ⟨hstate', hpressed'⟩ := EncRec.tick_of_settled (pressed := pressed) hstate
  exact ⟨hstate', hpressed'.trans hpressed⟩

/-- Settles O22: the first tick starts a hold, and every further tick is within its window. -/
theorem shortLevelChangeIsAbsorbed : Obligations.ShortLevelChangeIsAbsorbed := by
  intro s c t0 ticks hc hraw hticks clk dt
  have hchanged : (!(s.encAt c).btnState) ≠ (s.encAt c).btnRawPrev := by simp [hraw]
  have h := EncRec.holds_foldl_tick (pressed := s.params.pressedLevel) (clk := clk) (dt := dt) hchanged hticks
  rw [← State.encAt_ticksAt hc] at h
  exact ⟨_, runAt_heldTicks s c _ _, h.btnState, h.btnPressed⟩

/-- Settles O23: the hold is absorbed within its window, accepted at the first tick after it, and settled from then
on, whatever ENC.WASPRESSED clears. -/
theorem longPressSetsLatchOnce : Obligations.LongPressSetsLatchOnce := by
  intro s c t0 t1 tr ticks later clk dt clk' dt' hc hraw hstate hticks hafter hlt
  set pressed := s.params.pressedLevel
  set u := s.ticksAt c (heldTicks pressed ((t0, clk, dt) :: ticks)) with hu
  set v := u.ticksAt c (heldTicks pressed [(t1, clk', dt')]) with hv
  set w := (v.atTime (clock tr)).pressRead c with hw
  have huparams : u.params = s.params := State.ticksAt_params _
  have hvparams : v.params = s.params := (State.ticksAt_params _).trans huparams
  have hheld : (s.encAt c).Holds (u.encAt c) pressed (clock t0) := by
    rw [hu, State.encAt_ticksAt hc]
    exact EncRec.holds_foldl_tick (by simp [hraw]) hticks
  have haccepted : (v.encAt c).btnState = pressed ∧ (v.encAt c).btnPressed = true := by
    rw [hv, State.encAt_ticksAt (huparams ▸ hc), huparams]
    exact hheld.tick_accepted (by simp [hstate]) hafter hlt
  obtain ⟨hlevel, hlatch⟩ := haccepted
  have hwrecord : w.encAt c = { v.encAt c with btnPressed := false } := State.encAt_pressRead
  have hwlevel : (w.encAt c).btnState = pressed := hwrecord ▸ hlevel
  have hsettled := EncRec.foldl_tick_of_settled (pressed := w.params.pressedLevel) later hwlevel
  rw [← State.encAt_ticksAt (s := w) (hvparams ▸ hc)] at hsettled
  obtain ⟨hlevel', hlatch'⟩ := hsettled
  refine ⟨u, v, w, _, runAt_heldTicks s c _ _, hheld.btnState.trans hstate, hheld.btnPressed,
    runAt_heldTicks u c _ [(t1, clk', dt')], hlevel, hlatch,
    runAt_cons (exec_encWasPressed_of_exists (hvparams ▸ hc)), ?_, runAt_heldTicks w c _ later, hlevel', ?_⟩
  · rw [hw, State.pressRead_res, State.encAt_atTime, hlatch]
    rfl
  · rw [hlatch', hwrecord]

end Sys2Proof.Machine
end

section
/-! What the faders' half of a tick sends (R254, R144): at most one update for each channel, in ascending order. -/

namespace Sys2Proof.Machine

/-- The second state has sent fader updates after what the first has sent: for channels that exist and lie at or above
`c`, in ascending order, so at most one for each. -/
def State.ReportsAscending (s t : State) (c : Nat) : Prop :=
  ∃ msgs : List (Byte × Byte), msgs.Pairwise (fun a b => a.1.toNat < b.1.toNat) ∧
    (∀ m ∈ msgs, c ≤ m.1.toNat ∧ channelExists s.params m.1) ∧
    t.tx = s.tx ++ msgs.flatMap (fun m => faderUpdMessage m.1 m.2)

variable {s t u : State} {c : Nat}

theorem State.ReportsAscending.silent (h : t.tx = s.tx) : s.ReportsAscending t c :=
  ⟨[], .nil, nofun, by simpa using h⟩

/-- Updates from the next channel on are still ascending after a step that sends nothing. -/
theorem State.ReportsAscending.after_silence (h : t.ReportsAscending u (c + 1)) (hparams : t.params = s.params)
    (htx : t.tx = s.tx) : s.ReportsAscending u c := by
  obtain ⟨msgs, hascend, hchannels, hu⟩ := h
  exact ⟨msgs, hascend, fun m hm => ⟨Nat.le_of_succ_le (hchannels m hm).1, hparams ▸ (hchannels m hm).2⟩, htx ▸ hu⟩

/-- Updates from the next channel on are still ascending after an update of this channel. -/
theorem State.ReportsAscending.after_report {ch q : Byte} (h : t.ReportsAscending u (c + 1))
    (hparams : t.params = s.params) (hch : ch.toNat = c) (hexists : channelExists s.params ch)
    (htx : t.tx = s.tx ++ faderUpdMessage ch q) : s.ReportsAscending u c := by
  obtain ⟨msgs, hascend, hchannels, hu⟩ := h
  refine ⟨(ch, q) :: msgs, List.pairwise_cons.2 ⟨fun m hm => ?_, hascend⟩, List.forall_mem_cons.2
    ⟨⟨hch.ge, hexists⟩, fun m hm => ?_⟩, ?_⟩
  · exact hch ▸ (hchannels m hm).1
  · exact ⟨Nat.le_of_succ_le (hchannels m hm).1, hparams ▸ (hchannels m hm).2⟩
  · rw [hu, htx, List.flatMap_cons, List.append_assoc]

/-- One FAD.SAMPLE sends nothing, or one update of its own channel, which exists. -/
theorem State.sampleOp_tx (s : State) (ch : Byte) (raw : BitVec 10) :
    (s.sampleOp ch raw).tx = s.tx ∨
      channelExists s.params ch ∧ ∃ q, (s.sampleOp ch raw).tx = s.tx ++ faderUpdMessage ch q := by
  apply s.sampleOp_cases (fun t => t.tx = s.tx ∨ channelExists s.params ch ∧ ∃ q, t.tx = s.tx ++ faderUpdMessage ch q)
  case absent => exact fun _ => .inl rfl
  case skipped => exact fun _ _ => .inl rfl
  case silent => exact fun _ _ _ => .inl rfl
  case reports => exact fun hc _ _ => .inr ⟨hc, _, rfl⟩

/-- The samples of channels `c`, `c + 1`, … report in ascending order, as long as the channel index does not wrap. -/
theorem State.sampleAll_reportsAscending (s : State) (c : Nat) (inputs : List TickInput)
    (hrange : c + inputs.length ≤ 256) : s.ReportsAscending (s.sampleAll c inputs) c := by
  induction inputs generalizing s c with
  | nil => exact .silent rfl
  | cons x rest ih =>
    rw [List.length_cons] at hrange
    have hrest := ih (s.sampleOp (BitVec.ofNat 8 c) x.raw) (c + 1) (by omega)
    have hparams := s.sampleOp_params (BitVec.ofNat 8 c) x.raw
    have hch : (BitVec.ofNat 8 c).toNat = c := by rw [BitVec.toNat_ofNat, Nat.mod_eq_of_lt (by omega)]
    obtain hsilent | ⟨hexists, q, hreport⟩ := s.sampleOp_tx (BitVec.ofNat 8 c) x.raw
    · exact hrest.after_silence hparams hsilent
    · exact hrest.after_report hparams hch hexists hreport

/-- The encoders' half of a tick sends nothing. -/
@[simp] theorem State.tickAll_tx (s : State) (c : Nat) (inputs : List TickInput) : (s.tickAll c inputs).tx = s.tx :=
  s.tickAll_keeps (fun t => t.tx = s.tx) (fun t ch clk dt sw h => (t.tickOp_tx ch clk dt sw).trans h) c inputs rfl

/-- Settles O41: only the samples send, and a well-formed tick has no more groups than a byte has values. -/
theorem tickMessagesAscend : Obligations.TickMessagesAscend := by
  intro s t inputs hp hi ht
  cases ht
  obtain ⟨-, hnch, -, -⟩ := hp
  have hlength : inputs.length = s.params.nch := eq_of_beq hi
  obtain ⟨msgs, hascend, hchannels, htx⟩ := s.sampleAll_reportsAscending 0 inputs (by omega)
  exact ⟨msgs, hascend, fun m hm => (hchannels m hm).2, (State.tickAll_tx _ _ _).trans htx⟩

end Sys2Proof.Machine
end

section
/-! The operations that belong to no unit (R250 to R253), and the rejection of a channel the block does not have by
every operation with a channel operand (R255). -/

namespace Sys2Proof.Machine

/-- Settles O1: the reserved code's condition is bit 3. -/
theorem nopAndReservedCode : Obligations.NopAndReservedCode :=
  ⟨fun ch arg => ⟨by simp [decodeWord], by simp [decodeWord]⟩, fun _ => ⟨rfl, rfl⟩⟩

/-- Every bit of the status word (R46, R251). -/
theorem getLsbD_statusWord (rxActive : Bool) (bits : BitVec 4) (k : Nat) :
    (statusWord rxActive bits).getLsbD k =
      if k < 4 then bits.getLsbD k else if k = 8 then rxActive else false := by
  simp only [statusWord, BitVec.getLsbD_append]
  by_cases hsticky : k < 4
  · simp [hsticky]
  · by_cases hactive : k = 8
    · simp [hactive]
    · have hgap : 4 ≤ k - 4 → k - 4 - 4 ≠ 0 := by omega
      simp +contextual [hsticky, hactive, hgap]

/-- Settles O2: the word STAT.READ returns, bit by bit. -/
theorem statReadAndStatClear : Obligations.StatReadAndStatClear := by
  refine ⟨fun ch arg => ⟨by simp [decodeWord], by simp [decodeWord]⟩,
    fun s => ⟨statusWord s.rx.active s.status, rfl, ?_, fun k hk => ?_, fun k hk hne => ?_⟩, fun _ => rfl⟩
  · exact getLsbD_statusWord _ _ 8
  · simp [getLsbD_statusWord, hk]
  · simp [getLsbD_statusWord, Nat.not_lt.2 hk, hne]

/-- Every operation with a channel operand is a body behind the channel check of that channel. -/
theorem exec_eq_withChannel {i : Instr} {ch : Byte} (s : State) (hi : i.channelOperand = some ch) :
    ∃ body, exec i s = .next (s.withChannel ch body) := by
  cases i with
  | icoStart | icoAddByte | icoIsReady | icoSetPh | icoDraw | icoRdPix | fadSample | encTick | encGetDelta
  | encWasPressed =>
    cases hi
    exact ⟨_, rfl⟩
  | _ => cases hi

/-- Settles O3: the channel check rejects, whatever the body. -/
theorem channelOutOfRangeIsRejected : Obligations.ChannelOutOfRangeIsRejected := by
  intro s i ch hi habsent
  obtain ⟨body, hbody⟩ := exec_eq_withChannel s hi
  rw [hbody, s.withChannel_rejected ch body habsent]

end Sys2Proof.Machine
end

section
/-! What inbound bytes cannot reach (R267), and how many conditions one operation of the driver meets (R264). -/

namespace Sys2Proof.Machine

variable {s t : State}

/-! ## Inbound bytes -/

/-- An operation that gives bytes to the parser does nothing but that. -/
theorem exec_eq_rxBytes_of_feedsParser {i : Instr} (s : State) (hi : i.feedsParser = true) :
    ∃ bytes, exec i s = .next (s.rxBytes bytes) := by
  cases i with
  | rxByte b => exact ⟨[b], rfl⟩
  | hsReq | appName | volume | icon | unrecognised | rxFrame => exact ⟨_, rfl⟩
  | _ => cases hi

/-- Settles O39: the parser's bytes keep the encoders, the faders, the parameters and the ports. -/
theorem hostCannotReachEncodersOrFaders : Obligations.HostCannotReachEncodersOrFaders := by
  intro s t i hi ht
  obtain ⟨bytes, hbytes⟩ := exec_eq_rxBytes_of_feedsParser s hi
  cases hbytes.symm.trans ht
  exact ⟨s.rxBytes_enc bytes, s.rxBytes_fad bytes, s.rxBytes_params bytes, s.rxBytes_ports bytes⟩

/-! ## Recorded conditions -/

/-- From the first state to the second the sticky bits are kept, or one condition is recorded in them. -/
def State.MeetsAtMostOne (s t : State) : Prop := t.status = s.status ∨ ∃ k : Cond, t.status = stickySet k s.status

theorem State.MeetsAtMostOne.of_flag {k : Cond} (h : t.status = (s.flag k).status) : s.MeetsAtMostOne t := .inr ⟨k, h⟩

/-- The channel check meets one condition when it rejects, so an operation behind it may have a body that meets one. -/
theorem State.withChannel_meetsAtMostOne (s : State) (ch : Byte) {body : State → State}
    (h : s.MeetsAtMostOne (body s)) : s.MeetsAtMostOne (s.withChannel ch body) :=
  s.withChannel_cases (s.MeetsAtMostOne ·) ch body (fun _ => .of_flag (k := .chRange) rfl) (fun _ => h)

theorem State.sampleOp_meetsAtMostOne (s : State) (ch : Byte) (raw : BitVec 10) :
    s.MeetsAtMostOne (s.sampleOp ch raw) :=
  s.sampleOp_cases (s.MeetsAtMostOne ·) ch raw (fun _ => .of_flag (k := .chRange) rfl) (fun _ _ => .inl rfl)
    (fun _ _ _ => .inl rfl) (fun _ _ _ => .inl rfl)

theorem State.rxByteOp_meetsAtMostOne (s : State) (b : Byte) : s.MeetsAtMostOne (s.rxByteOp b) :=
  s.rxByteOp_status (fun bits => bits = s.status ∨ ∃ k : Cond, bits = stickySet k s.status) b (.inl rfl)
    (fun k _ => .inr ⟨k, rfl⟩)

/-- STAT.CLEAR aside, an operation of the driver meets at most one condition: the channel check, the parser and the
reserved code each meet one, and nothing that runs with them meets another. -/
theorem exec_local_meetsAtMostOne {i : Instr} (hi : i.isLocal = true) (hclear : i ≠ .statClear)
    (ht : exec i s = .next t) : s.MeetsAtMostOne t := by
  cases i with
  | nop | rxRearm | statRead => cases ht; exact .inl rfl
  | statClear => exact absurd rfl hclear
  | reservedF => cases ht; exact .of_flag (k := .badOp) rfl
  | rxByte b => cases ht; exact s.rxByteOp_meetsAtMostOne b
  | fadSample ch raw => cases ht; exact s.sampleOp_meetsAtMostOne ch raw
  | icoStart ch | icoIsReady ch | icoSetPh ch | encTick ch | encGetDelta ch | encWasPressed ch =>
    cases ht
    exact s.withChannel_meetsAtMostOne ch (.inl rfl)
  | icoAddByte ch b => cases ht; exact s.withChannel_meetsAtMostOne ch (.inl (s.icoAddByte_status ch b))
  | icoDraw ch x y =>
    cases ht
    refine s.withChannel_meetsAtMostOne ch (.inl ?_)
    split
    · rfl
    · rfl
  | icoRdPix ch k =>
    cases ht
    obtain ⟨v, n, hread⟩ := s.retPixel_frame ch k.toNat
    exact s.withChannel_meetsAtMostOne ch (.inl (by rw [hread]))
  | _ => cases hi

/-- Settles O55: the bit of a condition is the power of two of its code. -/
theorem atMostOneConditionPerOperation : Obligations.AtMostOneConditionPerOperation := by
  intro s t i hi hclear ht
  obtain hkept | ⟨k, hk⟩ := exec_local_meetsAtMostOne hi hclear ht
  · exact .inl hkept
  · exact .inr ⟨k, hk.trans (stickySet_eq k s.status)⟩

end Sys2Proof.Machine
end

section
/-! A concatenation of whole inbound frames from the idle parser (R92, R297): each frame leaves the parser idle again,
so that the next one starts where it can be read. -/

namespace Sys2Proof.Machine

variable {s t u : State} {i : Instr} {frames rest : List Instr}

/-- From `s` to `t` the frames are over: the parser is idle, and their events and the answers to their handshake
requests are put out. -/
structure State.Completes (s : State) (frames : List Instr) (t : State) : Prop where
  idle : t.rx.active = false
  events : t.ev = s.ev ++ frames.flatMap (frameEvents s.params)
  answers : t.tx = s.tx ++ (frames.filter (· = .hsReq)).flatMap (fun _ => announcement s.params s.ports.uuid)

theorem State.completes_nil (hidle : s.rx.active = false) : s.Completes [] s :=
  ⟨hidle, by simp, by simp⟩

/-- Frames that follow a frame are read with the parameters and the identifier that frame was read with. -/
theorem State.Completes.cons (hfirst : s.Completes [i] t) (hparams : t.params = s.params) (hports : t.ports = s.ports)
    (hrest : t.Completes rest u) : s.Completes (i :: rest) u where
  idle := hrest.idle
  events := by
    rw [hrest.events, hfirst.events, hparams, List.append_assoc, ← List.flatMap_append, List.singleton_append]
  answers := by
    rw [hrest.answers, hfirst.answers, hparams, hports, List.append_assoc, ← List.flatMap_append,
      ← List.filter_append, List.singleton_append]

/-- One whole frame, the four kinds of it (R136 to R139). -/
theorem exec_frame_completes (hp : s.params.wf) (hidle : s.rx.active = false) (hid : s.ports.uuidValid = true)
    (hi : i.isFrame = true) (hwf : i.wf s.params = true) : ∃ t, exec i s = .next t ∧ s.Completes [i] t := by
  cases i with
  | hsReq =>
    refine ⟨_, handshakeRequestIsAnswered.1 s hidle, ?_⟩
    rw [if_pos hid]
    exact ⟨hidle, by simp [frameEvents], by simp⟩
  | appName ch text =>
    refine ⟨_, appNameFrameDeliversText s ch text hp hidle (by simpa [Instr.wf, Config.nameLen] using hwf), ?_⟩
    refine ⟨rfl, ?_, by simp⟩
    by_cases hc : ch.toNat < s.params.nch <;> simp [frameEvents, channelExists, hc]
  | volume ch value =>
    refine ⟨_, volumeFrameDeliversClampedValue s ch value hp hidle, rfl, ?_, by simp⟩
    by_cases hc : ch.toNat < s.params.nch <;> simp [frameEvents, channelExists, hc]
  | icon ch pixels =>
    have hlen : pixels.length = 8192 := by simpa [Instr.wf, Config.iconBytes, Config.npix] using hwf
    obtain ⟨present, absent⟩ := iconFrameFillsTheBuffer s ch pixels hp hidle hlen
    by_cases hc : ch.toNat < s.params.nch
    · obtain ⟨t, ht, -, -, -, -, -, -, hframe⟩ := present hc
      refine ⟨t, ht, ?_⟩
      rw [hframe]
      exact ⟨rfl, by simp [frameEvents], by simp⟩
    · exact ⟨_, absent (Nat.not_lt.1 hc), rfl, by simp [frameEvents], by simp⟩
  | _ => cases hi

/-- Frame after frame: each begins with the parser idle, as the one before has left it. -/
theorem State.rxBytes_frames_completes (hp : s.params.wf) (hidle : s.rx.active = false)
    (hid : s.ports.uuidValid = true) (hframes : ∀ i ∈ frames, i.isFrame = true ∧ i.wf s.params = true) :
    s.Completes frames (s.rxBytes (frames.flatMap (frameBytes s.params))) := by
  induction frames generalizing s with
  | nil => exact State.completes_nil hidle
  | cons i rest ih =>
    obtain ⟨⟨hi, hwf⟩, hrest⟩ := List.forall_mem_cons.1 hframes
    obtain ⟨t, ht, hfirst⟩ := exec_frame_completes hp hidle hid hi hwf
    cases (exec_frame s hi).symm.trans ht
    have hparams := s.rxBytes_params (frameBytes s.params i)
    have hports := s.rxBytes_ports (frameBytes s.params i)
    have hlater := ih (by rwa [hparams]) hfirst.idle (by rwa [hports]) (by rwa [hparams])
    rw [hparams] at hlater
    rw [List.flatMap_cons, State.rxBytes_append]
    exact hfirst.cons hparams hports hlater

/-- Settles O38: the bytes of the frames through the parser, frame after frame. -/
theorem wholeFramesKeepFraming : Obligations.WholeFramesKeepFraming := by
  intro s frames hp hidle hid hframes
  obtain ⟨hdone, hevents, hanswers⟩ := State.rxBytes_frames_completes hp hidle hid hframes
  exact ⟨_, rfl, hdone, hevents, hanswers⟩

end Sys2Proof.Machine
end
